-- ==== Sys2Proof/Word.lean ====
section
/-! DEFINITION. The word types of PNGME-CRC32: every quantity is unsigned (00_scope.md R10). -/

namespace Sys2Proof

/-- A byte: 8 bits (00_scope.md R8). -/
abbrev Byte := BitVec 8

/-- A register word: 32 bits (10_state.md R22). -/
abbrev Word := BitVec 32

/-- The byte counter COUNT: 64 bits, wrapping (00_scope.md R7, R10). -/
abbrev Count := BitVec 64

/-- An offset in the 0x40-byte register window: 0x00 to 0x3F (20_memory.md R63). -/
abbrev Offset := BitVec 6

end Sys2Proof
end

