-- ==== Sys2Proof/Config.lean ====
section
/-! DEFINITION. What the spec leaves to the platform, and the free values: opaque constants, so that
no proof can see a value of theirs. -/

namespace Sys2Proof.Config

/-- Where the platform places the block, counted in windows of 0x40 bytes.
20_memory.md R70: `BASE` is OPEN and "must be a multiple of 0x40". Log entry 6. -/
opaque windowIndex : Nat

/-- `BASE`, the bus address of register offset 0x00 (00_scope.md R7, 20_memory.md R70). -/
def base : Nat := 0x40 * windowIndex

/-- 70_reset_and_hazards.md R233: a read that meets reset "returns either the value before reset or the
value after reset. A model takes that as a draw between the two." The draw, applied to the state's
counter of draws: true stands for the value before. FREE VALUE, log entry 4. -/
opaque readSeesOldState : Nat → Bool

/-- 70_reset_and_hazards.md R233: while reset stays asserted a read "returns an unspecified value, so a
model should refuse to use it". The value, applied to the state's counter of draws.
FREE VALUE, log entry 5. -/
opaque readUnderReset : Nat → Word

end Sys2Proof.Config
end

