-- ==== Sys2Proof/Syntax.lean ====
section
/-! DEFINITION. The accesses a host makes and the operations they are: one constructor of `Instr` for each
row of spec/opcode_table.json. -/

namespace Sys2Proof

/-- The access width in bytes, "one of 1, 2 or 4" (20_memory.md R63). -/
inductive AccessSize where
  | one
  | two
  | four
deriving DecidableEq, Repr

/-- An access that reaches the block (20_memory.md R63): `BusRead(off, size)` or
`BusWrite(off, size, data)`. It is the block's encoded instruction (30_encoding.md R80). -/
inductive BusOp where
  | read (off : Offset) (size : AccessSize)
  | write (off : Offset) (size : AccessSize) (data : Word)
deriving DecidableEq, Repr

/-- The operations of spec/opcode_table.json, one constructor a row, with the fields the table gives the
row as operands. The rows that stand for refused encodings are operations too: their effect is
`raise PERR` (30_encoding.md R88). -/
inductive Instr where
  /-- NOP, CMD opcode 0x0 (43_commands.md R171). -/
  | nop
  /-- ABORT, CMD opcode 0x1 (43_commands.md R172). -/
  | abort
  /-- GEN, CMD opcode 0x2 (43_commands.md R174). -/
  | gen
  /-- PARSE, CMD opcode 0x3 (43_commands.md R175). -/
  | parse
  /-- RAW, CMD opcode 0x4 (43_commands.md R176). -/
  | raw
  /-- FINISH, CMD opcode 0x5 (43_commands.md R177). -/
  | finish
  /-- TEXTCHK, CMD opcode 0x6 (43_commands.md R181). -/
  | textchk
  /-- RESERVED_CMD_7, CMD opcode 0x7 (43_commands.md R182). -/
  | reservedCmd7
  /-- RESERVED_CMD_8_F, CMD opcodes 0x8 to 0xF: bit 3 is set, `low` is bits 2:0 (43_commands.md R182). -/
  | reservedCmd8F (low : BitVec 3)
  /-- RESERVED_CMD_MBZ, a CMD word whose bits 31:4 are not zero (43_commands.md R182). -/
  | reservedCmdMbz (mbz : BitVec 28) (op : BitVec 4)
  /-- TAGW, a write to TAG: `b0` is bits 31:24 (30_encoding.md R82, 40_tag.md R106). -/
  | tagw (b0 b1 b2 b3 : Byte)
  /-- PUSH8, a write to DATA8: `ign` is bits 31:8, `b` is bits 7:0 (30_encoding.md R83, 42_stream.md R140). -/
  | push8 (ign : BitVec 24) (b : Byte)
  /-- PUSH32, a write to DATA32: `b0` is bits 31:24 (30_encoding.md R84, 42_stream.md R141). -/
  | push32 (b0 b1 b2 b3 : Byte)
  /-- WR_REFUSED, an aligned 32-bit write to a read-only or reserved slot (20_memory.md R64). -/
  | wrRefused (off : Offset) (data : Word)
  /-- WR_NARROW_OR_MISALIGNED, a write with size != 4 or an offset that is no multiple of 4
  (20_memory.md R64). -/
  | wrNarrowOrMisaligned (off : Offset) (size : AccessSize) (data : Word)
  /-- RD, a read of any width at any offset (20_memory.md R65). -/
  | rd (off : Offset) (size : AccessSize)
deriving DecidableEq, Repr

end Sys2Proof
end

