-- ==== Sys2Proof/WellFormed.lean ====
section
/-! DEFINITION. Which terms of `Instr` are operations some access encodes. -/

namespace Sys2Proof

/-- The slots a write is refused at because they are read-only (20_memory.md R64, condition 3). -/
def readOnlySlots : List Offset := [0x00, 0x08, 0x10, 0x14, 0x18, 0x1C, 0x28, 0x2C]

/-- The reserved slots (20_memory.md R64, condition 4; 10_state.md R39). -/
def reservedSlots : List Offset := [0x30, 0x34, 0x38, 0x3C]

/-- An access that is 32 bits wide and aligned to 4, the only form with an effect (20_memory.md R67). -/
def isWordAccess (off : Offset) (size : AccessSize) : Bool :=
  size == .four && off.toNat % 4 == 0

/-- The checks on operands: a CMD word with zero bits 31:4 is no RESERVED_CMD_MBZ, WR_REFUSED is at a
read-only or reserved slot, and WR_NARROW_OR_MISALIGNED is narrow or misaligned. -/
def Instr.wf : Instr → Bool
  | .nop | .abort | .gen | .parse | .raw | .finish | .textchk => true
  | .reservedCmd7 => true
  | .reservedCmd8F _ => true
  | .reservedCmdMbz mbz _ => mbz != 0
  | .tagw _ _ _ _ => true
  | .push8 _ _ => true
  | .push32 _ _ _ _ => true
  | .wrRefused off _ => readOnlySlots.contains off || reservedSlots.contains off
  | .wrNarrowOrMisaligned off size _ => !isWordAccess off size
  | .rd _ _ => true

end Sys2Proof
end

