-- ==== Sys2Proof/Decode.lean ====
section
/-! DEFINITION. From the host's bus access to an access of the window, from that to an operation, and back:
the byte order of a word, routing, the decoder, the encoder. -/

namespace Sys2Proof

/-! ### Bytes of a word -/

/-- Byte `n` of a register word, counted from the most significant: `word[31-8n : 24-8n]`
(00_scope.md R8). -/
def wordByte (w : Word) (n : Nat) : Byte := w.extractLsb' (24 - 8 * n) 8

/-- The word whose bytes, most significant first, are the four given (20_memory.md R62). -/
def wordOfBytes (b0 b1 b2 b3 : Byte) : Word := b0 ++ b1 ++ b2 ++ b3

/-- `be32(w)`: the four bytes of a word, most significant first (00_scope.md R9). -/
def be32 (w : Word) : List Byte := [wordByte w 0, wordByte w 1, wordByte w 2, wordByte w 3]

/-! ### Routing: which bus access reaches the block -/

/-- What a host puts on the bus: a bus address, a width in bytes, and for a write the data. -/
inductive HostAccess where
  | read (addr size : Nat)
  | write (addr size : Nat) (data : Word)
deriving DecidableEq, Repr

/-- Why an access is no access of the block's. -/
inductive RouteError where
  /-- The address is outside `BASE + 0x00` to `BASE + 0x3F`: "the platform decodes it, not the block"
  (20_memory.md R63). -/
  | outsideWindow
  /-- The width is none of 1, 2 and 4 bytes (20_memory.md R63). -/
  | noBusSize
deriving DecidableEq, Repr

/-- `off`, the bus address minus `BASE`, where it lies in 0x00..0x3F (20_memory.md R63). -/
def offsetIn (base addr : Nat) : Except RouteError Offset :=
  if base ≤ addr ∧ addr < base + 0x40 then .ok (BitVec.ofNat 6 (addr - base))
  else .error .outsideWindow

/-- The width of an access, where the bus has it (20_memory.md R63). -/
def sizeOf? (bytes : Nat) : Except RouteError AccessSize :=
  match bytes with
  | 1 => .ok .one
  | 2 => .ok .two
  | 4 => .ok .four
  | _ => .error .noBusSize

/-- The access of the block that a host's bus access is, with the window at `base`. -/
def route (base : Nat) : HostAccess → Except RouteError BusOp
  | .read addr size =>
    match offsetIn base addr, sizeOf? size with
    | .ok off, .ok sz => .ok (.read off sz)
    | .error e, _ => .error e
    | .ok _, .error e => .error e
  | .write addr size data =>
    match offsetIn base addr, sizeOf? size with
    | .ok off, .ok sz => .ok (.write off sz data)
    | .error e, _ => .error e
    | .ok _, .error e => .error e

/-! ### The decoder -/

/-- The command in a word written to CMD (30_encoding.md R81, R91): bits 31:4 are checked before OP
(43_commands.md R170). -/
def decodeCmd (data : Word) : Instr :=
  if data.extractLsb' 4 28 ≠ 0 then
    .reservedCmdMbz (data.extractLsb' 4 28) (data.extractLsb' 0 4)
  else
    match (data.extractLsb' 0 4).toNat with
    | 0x0 => .nop
    | 0x1 => .abort
    | 0x2 => .gen
    | 0x3 => .parse
    | 0x4 => .raw
    | 0x5 => .finish
    | 0x6 => .textchk
    | 0x7 => .reservedCmd7
    | _ => .reservedCmd8F (data.extractLsb' 0 3)

/-- The operation an aligned 32-bit write is: the slot picks the format (30_encoding.md R80). -/
def decodeSlotWrite (off : Offset) (data : Word) : Instr :=
  match off.toNat with
  | 0x04 => decodeCmd data
  | 0x0C => .tagw (wordByte data 0) (wordByte data 1) (wordByte data 2) (wordByte data 3)
  | 0x20 => .push8 (data.extractLsb' 8 24) (data.extractLsb' 0 8)
  | 0x24 => .push32 (wordByte data 0) (wordByte data 1) (wordByte data 2) (wordByte data 3)
  | _ => .wrRefused off data

/-- The decoder of 30_encoding.md R91. It is total: what R91 calls `Refused` are the operations
`reservedCmd7`, `reservedCmd8F`, `reservedCmdMbz`, `wrRefused` and `wrNarrowOrMisaligned`, each refused
under its own name, and a read is `rd` whatever its width and offset. -/
def decode : BusOp → Instr
  | .read off size => .rd off size
  | .write off size data =>
    if isWordAccess off size then decodeSlotWrite off data
    else .wrNarrowOrMisaligned off size data

/-- The decoder from the bus: an access that does not reach the block is rejected by name. -/
def decodeHostAccess (base : Nat) (a : HostAccess) : Except RouteError Instr :=
  match route base a with
  | .ok op => .ok (decode op)
  | .error e => .error e

/-- The bits of a table word as the 32-bit data of an access. spec/opcode_table.json numbers the bits of
the data word only: the slot is the row's "offset", not a bit. So a table word by itself is read as the
word of a write to CMD, offset 0x04, the one slot whose rows the table tells apart by bits.
DESIGN CHOICE, log entry 9. -/
def tableAccess (w : Nat) : BusOp := .write 0x04 .four (BitVec.ofNat 32 w)

/-- The operation the decoder reads from a table word; none where the word is wider than an access's
data word. -/
def decodeTableWord (nbits w : Nat) : Option Instr :=
  if nbits ≤ 32 ∧ w < 2 ^ 32 then some (decode (tableAccess w)) else none

/-! ### The encoder -/

/-- The CMD word of an opcode: "the word equals OP zero-extended" (30_encoding.md R81). -/
def cmdWord (op : BitVec 4) : Word := op.setWidth 32

/-- The access that encodes an operation, from the formats of 30_encoding.md R80 to R84. -/
def encode : Instr → BusOp
  | .nop => .write 0x04 .four (cmdWord 0x0)
  | .abort => .write 0x04 .four (cmdWord 0x1)
  | .gen => .write 0x04 .four (cmdWord 0x2)
  | .parse => .write 0x04 .four (cmdWord 0x3)
  | .raw => .write 0x04 .four (cmdWord 0x4)
  | .finish => .write 0x04 .four (cmdWord 0x5)
  | .textchk => .write 0x04 .four (cmdWord 0x6)
  | .reservedCmd7 => .write 0x04 .four (cmdWord 0x7)
  | .reservedCmd8F low => .write 0x04 .four (cmdWord (1#1 ++ low))
  | .reservedCmdMbz mbz op => .write 0x04 .four (mbz ++ op)
  | .tagw b0 b1 b2 b3 => .write 0x0C .four (wordOfBytes b0 b1 b2 b3)
  | .push8 ign b => .write 0x20 .four (ign ++ b)
  | .push32 b0 b1 b2 b3 => .write 0x24 .four (wordOfBytes b0 b1 b2 b3)
  | .wrRefused off data => .write off .four data
  | .wrNarrowOrMisaligned off size data => .write off size data
  | .rd off size => .read off size

end Sys2Proof
end

