-- ==== Sys2Proof/Machine/State.lean ====
section
/-! DEFINITION. The state: the tuple of 10_state.md R40 (`Block`), and beside it the block's inputs that
wait and the values its reads have returned. Plain data. -/

namespace Sys2Proof.Machine

/-- STATE (10_state.md R26). The codes 5, 6 and 7 "never occur" and have no constructor (log entry 8). -/
inductive Phase where
  | idle
  | gen
  | parse
  | raw
  | done
deriving DecidableEq, Repr

/-- A mode, "one of GEN, PARSE or RAW, which are the three streaming states" (00_scope.md R12). -/
inductive Mode where
  | gen
  | parse
  | raw
deriving DecidableEq, Repr

/-- LASTOP: the mode whose FINISH produced the current DONE, or none (10_state.md R29). -/
inductive LastOp where
  | none
  | gen
  | parse
  | raw
deriving DecidableEq, Repr

/-- ERR (10_state.md R28). Code 7 "never occurs" and has no constructor (log entry 8). -/
inductive ErrCode where
  | ok
  | invalidTag
  | truncatedInput
  | lengthMismatch
  | checksumMismatch
  | notUtf8Text
  | lengthOverflow
deriving DecidableEq, Repr

/-- The UTF-8 validator's state `u8 = (pend, lo, hi, bad)` (10_state.md R40, 42_stream.md R150). -/
structure Utf8 where
  /-- continuation bytes still wanted -/
  pend : Fin 4
  /-- the next continuation byte's lowest value -/
  lo : Byte
  /-- the next continuation byte's highest value -/
  hi : Byte
  /-- an ill-formed byte has been seen -/
  bad : Bool
deriving DecidableEq, Repr

/-- `U8_INIT`, the reset and restart value of `u8` (42_stream.md R150). -/
def Utf8.init : Utf8 := { pend := 0, lo := 0x80, hi := 0xBF, bad := false }

/-- The block's complete state: exactly the tuple of 10_state.md R40. -/
structure Block where
  /-- STATE -/
  st : Phase
  /-- ERR -/
  err : ErrCode
  /-- LASTOP -/
  lastop : LastOp
  /-- PERR -/
  perr : Bool
  /-- TAG -/
  tag : Word
  /-- LENGTH -/
  length : Word
  /-- RXCRC -/
  rxcrc : Word
  /-- COUNT -/
  count : Count
  /-- the running CRC register, before the final XOR -/
  crc : Word
  /-- the UTF-8 validator -/
  u8 : Utf8
deriving DecidableEq, Repr

/-- Every element of the tuple at its reset value (10_state.md R40, 70_reset_and_hazards.md R230). -/
def Block.reset : Block where
  st := .idle
  err := .ok
  lastop := .none
  perr := false
  tag := 0x00000000
  length := 0x00000000
  rxcrc := 0x00000000
  count := 0
  crc := 0xFFFFFFFF
  u8 := Utf8.init

/-- What can reach the block's ports: "the sequence of these operations, with reset as a third operation"
(20_memory.md R63), and the two edges of a reset that stays asserted (70_reset_and_hazards.md R233). -/
inductive Event where
  /-- An access arrives. -/
  | access (op : BusOp)
  /-- Reset is asserted and released again. -/
  | reset
  /-- Reset is asserted and stays asserted, with or without an access that meets it. -/
  | assertReset (meeting : Option BusOp)
  /-- Reset is released. -/
  | releaseReset
deriving DecidableEq, Repr

/-- The machine's state. `blk` is the spec's; the other fields are the model's own (log entries 1 to 4). -/
structure State where
  /-- the state tuple of 10_state.md R40 -/
  blk : Block
  /-- the events that have reached the block's ports and wait for their step, oldest first
  (20_memory.md R72) -/
  pending : List Event
  /-- the values the reads have returned, oldest first (70_reset_and_hazards.md R238) -/
  reads : List Word
  /-- the reset input stays asserted (70_reset_and_hazards.md R233) -/
  resetHeld : Bool
  /-- how many free values of R233 have been taken -/
  draws : Nat
deriving DecidableEq, Repr

/-- The state right after reset: the tuple as 70_reset_and_hazards.md R230 gives it, no event waiting, no
value read, reset released (log entries 1 to 4 for the model's own fields). -/
def State.reset : State where
  blk := Block.reset
  pending := []
  reads := []
  resetHeld := false
  draws := 0

/-- Why the machine stops with a fault: for no reason. "The block never halts and never hangs"
(70_reset_and_hazards.md R238) and "has no trap mechanism" (60_exceptions.md R206), so the type has no
constructor and no step can answer a fault. -/
inductive Fault where
deriving DecidableEq, Repr

/-- Why the model refuses. No meaning of this model does. -/
inductive Refusal where
  /-- Raised by `exec` alone, for an instruction of the opcode table that has no meaning yet, with the
  table's mnemonic. Safe: the model stops where the hardware goes on. No arm raises it. -/
  | notModelled (mnemonic : String)
deriving DecidableEq, Repr

end Sys2Proof.Machine
end

