-- ==== Sys2Proof/Machine/Operands.lean ====
section
/-! DEFINITION. Operand forms: the fields of the write word are taken apart by the decoder; here is how the
block assembles a field from several bytes (30_encoding.md R85), and which field of a frame a byte of
PARSE belongs to (42_stream.md R142, R154). -/

namespace Sys2Proof.Machine

/-- `R <- ((R << 8) | b) mod 2^32`, the shift-in registers' update (00_scope.md R10). -/
def shiftIn (r : Word) (b : Byte) : Word := (r <<< 8) ||| b.setWidth 32

/-- The fields of a frame (30_encoding.md R86), and what lies behind its end. -/
inductive FrameField where
  | length
  | tag
  | payload
  | checksum
  | excess
deriving DecidableEq, Repr

/-- The field the byte at frame offset `i` belongs to when the declared length is `len`
(42_stream.md R142): the sums are taken without wrapping. -/
def fieldAt (i len : Nat) : FrameField :=
  if i < 4 then .length
  else if i < 8 then .tag
  else if i < 8 + len then .payload
  else if i < 12 + len then .checksum
  else .excess

/-- The word of four wire bytes a little-endian host gets by one 32-bit load from its own memory
(20_memory.md R66). -/
def littleEndianLoad (b0 b1 b2 b3 : Byte) : Word := wordOfBytes b3 b2 b1 b0

/-- The byte swap such a host owes before it writes the word to DATA32 or TAG (20_memory.md R66). -/
def byteSwap (w : Word) : Word :=
  wordOfBytes (wordByte w 3) (wordByte w 2) (wordByte w 1) (wordByte w 0)

end Sys2Proof.Machine
end

