-- ==== Sys2Proof/Machine/Crc.lean ====
section
/-! DEFINITION. The CRC-32/ISO-HDLC engine (41_crc.md). -/

namespace Sys2Proof.Machine

/-- The reversed polynomial, 0xEDB88320 (41_crc.md R120). -/
def crcPoly : Word := 0xEDB88320

/-- The initial value and the final XOR, 0xFFFFFFFF (41_crc.md R122). -/
def crcInit : Word := 0xFFFFFFFF

/-- One turn of the loop of 41_crc.md R120. -/
def crcShift (c : Word) : Word :=
  if c.getLsbD 0 then (c >>> 1) ^^^ crcPoly else c >>> 1

/-- `n` turns of the loop. -/
def crcShifts : Nat → Word → Word
  | 0, c => c
  | n + 1, c => crcShifts n (crcShift c)

/-- `crc_step(c, b)`: one byte is absorbed (41_crc.md R120). -/
def crcStep (c : Word) (b : Byte) : Word := crcShifts 8 (c ^^^ b.setWidth 32)

/-- The bytes of a sequence absorbed in order (41_crc.md R122). -/
def crcFold (c : Word) (m : List Byte) : Word := m.foldl crcStep c

/-- The value read from CRC when the running register holds `c` (10_state.md R34). -/
def crcFinal (c : Word) : Word := c ^^^ crcInit

/-- `CRC32(m)`, the checksum of a byte sequence (41_crc.md R122). -/
def crc32 (m : List Byte) : Word := crcFinal (crcFold crcInit m)

/-- `T[n] = crc_step(zext_32(n), 0x00)`, the table of 41_crc.md R121. -/
def crcTable (n : Byte) : Word := crcStep (n.setWidth 32) 0x00

end Sys2Proof.Machine
end

