-- ==== Sys2Proof/Machine/Utf8.lean ====
section
/-! DEFINITION. The UTF-8 validator (42_stream.md R150). -/

namespace Sys2Proof.Machine

/-- `BAD = (0, 0x80, 0xBF, 1)` (42_stream.md R150). -/
def u8Bad : Utf8 := { pend := 0, lo := 0x80, hi := 0xBF, bad := true }

/-- A character is open: `pend` continuation bytes are wanted, the next one in `lo..hi`. -/
def u8Want (pend : Fin 4) (lo hi : Byte) : Utf8 := { pend, lo, hi, bad := false }

/-- The step on a byte that starts a character, the last ten lines of 42_stream.md R150. -/
def u8Start (b : Byte) : Utf8 :=
  if b ≤ 0x7F then Utf8.init
  else if 0xC2 ≤ b ∧ b ≤ 0xDF then u8Want 1 0x80 0xBF
  else if b = 0xE0 then u8Want 2 0xA0 0xBF
  else if 0xE1 ≤ b ∧ b ≤ 0xEC then u8Want 2 0x80 0xBF
  else if b = 0xED then u8Want 2 0x80 0x9F
  else if 0xEE ≤ b ∧ b ≤ 0xEF then u8Want 2 0x80 0xBF
  else if b = 0xF0 then u8Want 3 0x90 0xBF
  else if 0xF1 ≤ b ∧ b ≤ 0xF3 then u8Want 3 0x80 0xBF
  else if b = 0xF4 then u8Want 3 0x80 0x8F
  else u8Bad

/-- The step on a byte that continues a character (42_stream.md R150). -/
def u8Continue (u : Utf8) (b : Byte) : Utf8 :=
  if u.lo ≤ b ∧ b ≤ u.hi then u8Want ⟨u.pend.val - 1, by omega⟩ 0x80 0xBF else u8Bad

/-- `u8_step(u8, b)` (42_stream.md R150). -/
def u8Step (u : Utf8) (b : Byte) : Utf8 :=
  if u.bad then u8Bad
  else if u.pend.val > 0 then u8Continue u b
  else u8Start b

/-- The bytes of a sequence given to the validator in order. -/
def u8Fold (u : Utf8) (m : List Byte) : Utf8 := m.foldl u8Step u

/-- `UTF8_OK = (bad = 0) ∧ (pend = 0)` (10_state.md R30). -/
def Utf8.ok (u : Utf8) : Bool := !u.bad && u.pend == 0

end Sys2Proof.Machine
end

