-- ==== Sys2Proof/Machine/Flags.lean ====
section
/-! DEFINITION. The flag-like bits (10_state.md R41): the classification of the tag (40_tag.md) and the
fields of STATUS (10_state.md R25). -/

namespace Sys2Proof.Machine

/-! ### TAGFLAGS -/

/-- `alpha(b)`: an ASCII letter (40_tag.md R100). -/
def alpha (b : Byte) : Bool :=
  (0x41 ≤ b && b ≤ 0x5A) || (0x61 ≤ b && b ≤ 0x7A)

/-- VALID (40_tag.md R101). -/
def tagValid (tag : Word) : Bool :=
  alpha (wordByte tag 0) && alpha (wordByte tag 1) && alpha (wordByte tag 2) && alpha (wordByte tag 3)

/-- CRITICAL: bit 5 of tag byte 0 is clear (40_tag.md R102). -/
def tagCritical (tag : Word) : Bool := !(wordByte tag 0).getLsbD 5

/-- PUBLIC: bit 5 of tag byte 1 is clear (40_tag.md R103). -/
def tagPublic (tag : Word) : Bool := !(wordByte tag 1).getLsbD 5

/-- RESERVED_VALID: bit 5 of tag byte 2 is clear (40_tag.md R104). -/
def tagReservedValid (tag : Word) : Bool := !(wordByte tag 2).getLsbD 5

/-- SAFE_TO_COPY: bit 5 of tag byte 3 is set (40_tag.md R105). -/
def tagSafeToCopy (tag : Word) : Bool := (wordByte tag 3).getLsbD 5

/-- The value read from TAGFLAGS (10_state.md R32, 40_tag.md R107). -/
def tagFlags (tag : Word) : Word :=
  (BitVec.ofBool (tagSafeToCopy tag) ++ BitVec.ofBool (tagReservedValid tag)
    ++ BitVec.ofBool (tagPublic tag) ++ BitVec.ofBool (tagCritical tag)
    ++ BitVec.ofBool (tagValid tag)).setWidth 32

/-! ### STATUS -/

/-- STATE's code in STATUS[2:0] (10_state.md R26). -/
def Phase.code : Phase → BitVec 3
  | .idle => 0
  | .gen => 1
  | .parse => 2
  | .raw => 3
  | .done => 4

/-- ERR's code in STATUS[6:4] (10_state.md R28). -/
def ErrCode.code : ErrCode → BitVec 3
  | .ok => 0
  | .invalidTag => 1
  | .truncatedInput => 2
  | .lengthMismatch => 3
  | .checksumMismatch => 4
  | .notUtf8Text => 5
  | .lengthOverflow => 6

/-- LASTOP's code in STATUS[9:8] (10_state.md R29). -/
def LastOp.code : LastOp → BitVec 2
  | .none => 0
  | .gen => 1
  | .parse => 2
  | .raw => 3

/-- The value read from STATUS: `zext_32(PERR ++ UTF8_OK ++ LASTOP ++ 0 ++ ERR ++ 0 ++ STATE)`
(10_state.md R25). -/
def status (b : Block) : Word :=
  (BitVec.ofBool b.perr ++ BitVec.ofBool b.u8.ok ++ b.lastop.code ++ 0#1 ++ b.err.code ++ 0#1
    ++ b.st.code).setWidth 32

end Sys2Proof.Machine
end

