-- ==== Sys2Proof/Machine/Ops.lean ====
section
/-! DEFINITION. The operations the meanings share: reading a register, `raise PERR`, starting a session,
pushing a byte, ending a session, reset. -/

namespace Sys2Proof.Machine

/-! ### The state machine's tests -/

/-- A session is open: STATE is GEN, PARSE or RAW (00_scope.md R12). -/
def Phase.inSession : Phase → Bool
  | .gen | .parse | .raw => true
  | .idle | .done => false

/-- The state a session of a mode is in (10_state.md R26). -/
def Mode.phase : Mode → Phase
  | .gen => .gen
  | .parse => .parse
  | .raw => .raw

/-- LASTOP after the FINISH of a mode: `code(STATE)` of 43_commands.md R177. -/
def Mode.lastOp : Mode → LastOp
  | .gen => .gen
  | .parse => .parse
  | .raw => .raw

/-- The block holds a valid chunk (60_exceptions.md R205); also when TEXTCHK is legal
(43_commands.md R181). -/
def Block.validChunk (b : Block) : Bool :=
  b.st == .done && (b.lastop == .gen || b.lastop == .parse) && (b.err == .ok || b.err == .notUtf8Text)

/-! ### The window's registers -/

/-- The value of the register at an aligned offset (20_memory.md R65, 10_state.md R22): write-only and
reserved slots read 0. -/
def readRegister (b : Block) (off : Offset) : Word :=
  match off.toNat with
  | 0x00 => 0x504E4743
  | 0x08 => status b
  | 0x0C => b.tag
  | 0x10 => tagFlags b.tag
  | 0x14 => b.length
  | 0x18 => crcFinal b.crc
  | 0x1C => b.rxcrc
  | 0x28 => b.count.extractLsb' 0 32
  | 0x2C => b.count.extractLsb' 32 32
  | _ => 0x00000000

/-- `BusRead(off, size)`: a narrow or misaligned read returns 0 (20_memory.md R65). -/
def busRead (b : Block) (off : Offset) (size : AccessSize) : Word :=
  if isWordAccess off size then readRegister b off else 0x00000000

/-- The state with the block changed by `f`. -/
def State.onBlock (s : State) (f : Block → Block) : State := { s with blk := f s.blk }

/-- A read returns `v`: the value joins the observation (70_reset_and_hazards.md R238) and the block keeps
its state (20_memory.md R65). -/
def State.returning (s : State) (v : Word) : State := { s with reads := s.reads ++ [v] }

/-! ### Refusal -/

/-- PERR set to 1, nothing else changed (60_exceptions.md R202). -/
def Block.withPerr (b : Block) : Block := { b with perr := true }

/-- `raise PERR`, "the block's only exception primitive" (00_scope.md R9): the access ends with no other
effect. -/
def raisePerr (s : State) : Host.Outcome State Fault Refusal := .next (s.onBlock Block.withPerr)

/-- An operation that runs where its legality condition holds and is refused elsewhere
(43_commands.md R170). -/
def runIf (legal : Bool) (f : Block → Block) (s : State) : Host.Outcome State Fault Refusal :=
  if legal then .next (s.onBlock f) else raisePerr s

/-! ### Sessions -/

/-- `StartSession(m)` (43_commands.md R173): PERR and TAG are unchanged. -/
def startSession (m : Mode) (b : Block) : Block :=
  { b with
    err := .ok
    lastop := .none
    count := 0
    length := 0
    rxcrc := 0
    crc := crcInit
    u8 := Utf8.init
    st := m.phase }

/-- What one byte contributes in PARSE, by the frame field it lies in (42_stream.md R143 to R147). -/
def pushInField (f : FrameField) (x : Byte) (b : Block) : Block :=
  match f with
  | .length => { b with length := shiftIn b.length x }
  | .tag => { b with tag := shiftIn b.tag x, crc := crcStep b.crc x }
  | .payload => { b with crc := crcStep b.crc x, u8 := u8Step b.u8 x }
  | .checksum => { b with rxcrc := shiftIn b.rxcrc x }
  | .excess => b

/-- What one byte contributes in the current mode (42_stream.md R142). Outside a session no byte is
pushed (log entry 11). -/
def pushContribution (x : Byte) (b : Block) : Block :=
  match b.st with
  | .gen => { b with crc := crcStep b.crc x, u8 := u8Step b.u8 x }
  | .raw => { b with crc := crcStep b.crc x, u8 := u8Step b.u8 x }
  | .parse => pushInField (fieldAt b.count.toNat b.length.toNat) x b
  | .idle => b
  | .done => b

/-- `PushByte(b)` (42_stream.md R142): the contribution, then COUNT (R149). -/
def pushByte (x : Byte) (b : Block) : Block :=
  { pushContribution x b with count := b.count + 1 }

/-- Bytes pushed one after another. -/
def pushBytes (xs : List Byte) (b : Block) : Block := xs.foldl (fun b x => pushByte x b) b

/-- `FinishGen(n)` (43_commands.md R178). -/
def finishGen (b : Block) : Block :=
  { b with
    length := b.count.extractLsb' 0 32
    err := if b.count.toNat > 0xFFFFFFFF then .lengthOverflow else .ok }

/-- The code `FinishParse(n)` writes: the checks in their order, the first that fails
(43_commands.md R179). -/
def parseVerdict (b : Block) : ErrCode :=
  if b.count.toNat < 12 then .truncatedInput
  else if !tagValid b.tag then .invalidTag
  else if b.count.toNat ≠ 12 + b.length.toNat then .lengthMismatch
  else if crcFinal b.crc ≠ b.rxcrc then .checksumMismatch
  else .ok

/-- `FinishParse(n)` (43_commands.md R179). -/
def finishParse (b : Block) : Block := { b with err := parseVerdict b }

/-- `FinishRaw(n)` (43_commands.md R180). -/
def finishRaw (b : Block) : Block := { b with err := .ok }

/-- The end of a session of mode `m`: LASTOP and STATE (43_commands.md R177). -/
def endSession (m : Mode) (b : Block) : Block := { b with lastop := m.lastOp, st := .done }

/-- `Finish()` in an open session (43_commands.md R177); outside one it is refused before it gets here. -/
def finishSession (b : Block) : Block :=
  match b.st with
  | .gen => endSession .gen (finishGen b)
  | .parse => endSession .parse (finishParse b)
  | .raw => endSession .raw (finishRaw b)
  | .idle => b
  | .done => b

/-- STATE to IDLE, ERR and LASTOP cleared: the common part of ABORT and of a TAG write in DONE
(43_commands.md R172, 40_tag.md R106). -/
def Block.toIdle (b : Block) : Block := { b with st := .idle, err := .ok, lastop := .none }

/-! ### Reset -/

/-- `Reset()`: every element of the tuple to its reset value (70_reset_and_hazards.md R230). What waits on
the port and what reads have returned is not the block's (log entry 3). -/
def State.resetBlock (s : State) : State := s.onBlock (fun _ => Block.reset)

end Sys2Proof.Machine
end

