-- ==== Sys2Proof/Machine/Bus.lean ====
section
/-! DEFINITION. The accesses that are no operation of a writable register: RD, WR_REFUSED and
WR_NARROW_OR_MISALIGNED (20_memory.md R64, R65). -/

namespace Sys2Proof.Machine

/-- A write to a read-only or reserved slot, refused (20_memory.md R64). -/
def execWrRefused (_off : Offset) (_data : Word) (s : State) : Host.Outcome State Fault Refusal :=
  raisePerr s

/-- A narrow or misaligned write, refused (20_memory.md R64). -/
def execWrNarrowOrMisaligned (_off : Offset) (_size : AccessSize) (_data : Word) (s : State) :
    Host.Outcome State Fault Refusal := raisePerr s

/-- RD (20_memory.md R65): the value is returned and no state of the block changes. -/
def execRd (off : Offset) (size : AccessSize) (s : State) : Host.Outcome State Fault Refusal :=
  .next (s.returning (busRead s.blk off size))

end Sys2Proof.Machine
end

