-- ==== Sys2Proof/Machine/Commands.lean ====
section
/-! DEFINITION. The commands (43_commands.md). -/

namespace Sys2Proof.Machine

/-- NOP (43_commands.md R171). -/
def execNop (s : State) : Host.Outcome State Fault Refusal := .next s

/-- ABORT (43_commands.md R172): legal in every state; the only command that clears PERR. -/
def execAbort (s : State) : Host.Outcome State Fault Refusal :=
  .next (s.onBlock (fun b => { b.toIdle with perr := false }))

/-- A start command is legal in IDLE and DONE (43_commands.md R170). -/
def mayStart (s : State) : Bool := !s.blk.st.inSession

/-- GEN (43_commands.md R174): the tag bytes go into the CRC first, byte 0 first. -/
def execGen (s : State) : Host.Outcome State Fault Refusal :=
  runIf (mayStart s) (fun b => { startSession .gen b with crc := crcFold crcInit (be32 b.tag) }) s

/-- PARSE (43_commands.md R175): TAG is cleared, the frame supplies it. -/
def execParse (s : State) : Host.Outcome State Fault Refusal :=
  runIf (mayStart s) (fun b => { startSession .parse b with tag := 0x00000000 }) s

/-- RAW (43_commands.md R176). -/
def execRaw (s : State) : Host.Outcome State Fault Refusal :=
  runIf (mayStart s) (startSession .raw) s

/-- FINISH (43_commands.md R177). -/
def execFinish (s : State) : Host.Outcome State Fault Refusal :=
  runIf s.blk.st.inSession finishSession s

/-- TEXTCHK's result (43_commands.md R181). -/
def textCheck (b : Block) : Block :=
  { b with err := if b.u8.ok then .ok else .notUtf8Text }

/-- TEXTCHK (43_commands.md R181): legal only while a valid chunk is held. -/
def execTextchk (s : State) : Host.Outcome State Fault Refusal :=
  runIf s.blk.validChunk textCheck s

/-- CMD opcode 0x7, refused (43_commands.md R182). -/
def execReservedCmd7 (s : State) : Host.Outcome State Fault Refusal := raisePerr s

/-- CMD opcodes 0x8 to 0xF, refused (43_commands.md R182). -/
def execReservedCmd8F (_low : BitVec 3) (s : State) : Host.Outcome State Fault Refusal := raisePerr s

/-- A CMD word with bits 31:4 nonzero, refused (43_commands.md R170, R182). -/
def execReservedCmdMbz (_mbz : BitVec 28) (_op : BitVec 4) (s : State) :
    Host.Outcome State Fault Refusal := raisePerr s

end Sys2Proof.Machine
end

