-- ==== Sys2Proof/Machine/Stream.lean ====
section
/-! DEFINITION. PUSH8 and PUSH32 (42_stream.md R140, R141). -/

namespace Sys2Proof.Machine

/-- PUSH8 (42_stream.md R140): refused outside a session; bits 31:8 of the word are ignored. -/
def execPush8 (_ign : BitVec 24) (b : Byte) (s : State) : Host.Outcome State Fault Refusal :=
  runIf s.blk.st.inSession (pushByte b) s

/-- PUSH32 (42_stream.md R141): refused outside a session, else four bytes in one access. -/
def execPush32 (b0 b1 b2 b3 : Byte) (s : State) : Host.Outcome State Fault Refusal :=
  runIf s.blk.st.inSession (pushBytes [b0, b1, b2, b3]) s

end Sys2Proof.Machine
end

