-- ==== Sys2Proof/Machine/Tag.lean ====
section
/-! DEFINITION. TAGW (40_tag.md R106). -/

namespace Sys2Proof.Machine

/-- `WriteTag(data)` where it is accepted: TAG takes the word, and a DONE result is discarded
(40_tag.md R106). -/
def writeTag (data : Word) (b : Block) : Block :=
  if b.st = .done then { b with tag := data }.toIdle else { b with tag := data }

/-- TAGW (40_tag.md R106): refused in a session; the bytes are not checked. -/
def execTagw (b0 b1 b2 b3 : Byte) (s : State) : Host.Outcome State Fault Refusal :=
  runIf (!s.blk.st.inSession) (writeTag (wordOfBytes b0 b1 b2 b3)) s

end Sys2Proof.Machine
end

