-- ==== Sys2Proof/Machine/Dispatch.lean ====
section
/-! DEFINITION. One arm for each operation of the opcode table. -/

namespace Sys2Proof.Machine

def exec (i : Instr) (s : State) : Host.Outcome State Fault Refusal :=
  match i with
  | .nop => Sys2Proof.Machine.execNop s
  | .abort => Sys2Proof.Machine.execAbort s
  | .gen => Sys2Proof.Machine.execGen s
  | .parse => Sys2Proof.Machine.execParse s
  | .raw => Sys2Proof.Machine.execRaw s
  | .finish => Sys2Proof.Machine.execFinish s
  | .textchk => Sys2Proof.Machine.execTextchk s
  | .reservedCmd7 => Sys2Proof.Machine.execReservedCmd7 s
  | .reservedCmd8F low => Sys2Proof.Machine.execReservedCmd8F low s
  | .reservedCmdMbz mbz op => Sys2Proof.Machine.execReservedCmdMbz mbz op s
  | .tagw b0 b1 b2 b3 => Sys2Proof.Machine.execTagw b0 b1 b2 b3 s
  | .push8 ign b => Sys2Proof.Machine.execPush8 ign b s
  | .push32 b0 b1 b2 b3 => Sys2Proof.Machine.execPush32 b0 b1 b2 b3 s
  | .wrRefused off data => Sys2Proof.Machine.execWrRefused off data s
  | .wrNarrowOrMisaligned off size data => Sys2Proof.Machine.execWrNarrowOrMisaligned off size data s
  | .rd off size => Sys2Proof.Machine.execRd off size s

end Sys2Proof.Machine
end

