-- ==== Sys2Proof/Machine/Deliver.lean ====
section
/-! DEFINITION. What an event at the block's ports does, and how the host's accesses come to wait there. -/

namespace Sys2Proof.Machine

/-- An access while reset stays asserted "is lost, and a read then returns an unspecified value"
(70_reset_and_hazards.md R233): the block keeps its state and a read returns a free value
(log entry 5). -/
def loseAccess (op : BusOp) (s : State) : State :=
  match op with
  | .write _ _ _ => s
  | .read _ _ => { s.returning (Config.readUnderReset s.draws) with draws := s.draws + 1 }

/-- An access that meets reset (70_reset_and_hazards.md R233), before the reset itself: a write leaves no
trace, a read returns the value before reset or the value after it, as the draw says (log entry 4). -/
def meetReset (op : BusOp) (s : State) : State :=
  match op with
  | .write _ _ _ => s
  | .read off size =>
    let v := if Config.readSeesOldState s.draws then busRead s.blk off size
      else busRead Block.reset off size
    { s.returning v with draws := s.draws + 1 }

/-- The access, if there is one, in the window where reset becomes asserted. -/
def accessAtReset (meeting : Option BusOp) (s : State) : State :=
  match meeting with
  | none => s
  | some op => if s.resetHeld then loseAccess op s else meetReset op s

/-- One event handled whole (20_memory.md R68): an access runs its decoded operation. -/
def deliver (e : Event) (s : State) : Host.Outcome State Fault Refusal :=
  match e with
  | .access op => if s.resetHeld then .next (loseAccess op s) else exec (decode op) s
  | .reset => .next { s.resetBlock with resetHeld := false }
  | .assertReset meeting => .next { (accessAtReset meeting s).resetBlock with resetHeld := true }
  | .releaseReset => .next { s with resetHeld := false }

/-- The next event is taken off the port. With none waiting the engine takes no step of its own
(00_scope.md R13): the state stays. -/
def deliverNext (s : State) : Host.Outcome State Fault Refusal :=
  match s.pending with
  | [] => .next s
  | e :: rest => deliver e { s with pending := rest }

/-- A host puts an access on the bus: it waits behind those that came before it where it is one of the
block's, and does not reach the block where it is not (20_memory.md R63). -/
def State.submit (s : State) (a : HostAccess) : State :=
  match route Config.base a with
  | .ok op => { s with pending := s.pending ++ [.access op] }
  | .error _ => s

/-- The state in which the very next step takes the access a table word stands for: the access is put
before those that wait, and reset is released. The block's own state is untouched. -/
def placeTableWord (s : State) (w : Nat) : State :=
  { s with pending := .access (tableAccess w) :: s.pending, resetHeld := false }

end Sys2Proof.Machine
end

