-- ==== Sys2Proof/Machine/Step.lean ====
section
/-! DEFINITION. One step: the block handles the next event that waits at its ports. -/

namespace Sys2Proof.Machine

/-- One step. The block fetches no instructions (10_state.md R21): what it does next depends on the access
it receives, the first of `pending`. -/
def step (s : State) : Host.Outcome State Fault Refusal := deliverNext s

/-- `s` with the access of a table word waiting at the port before all others (log entry 10). The word's
width plays no part: bits above `nbits` are 0 in `w`. -/
def State.withFetchWord (s : State) (_nbits w : Nat) : State := placeTableWord s w

end Sys2Proof.Machine
end

