-- ==== Sys2Proof/Machine/Assembler.lean ====
section
/-! DEFINITION. The spec's assembly language: its registers' names, its two base forms and its
pseudo-instructions, each with its expansion (30_encoding.md R90). -/

namespace Sys2Proof.Machine

/-- The named registers (10_state.md R22). -/
inductive Reg where
  | id
  | cmd
  | status
  | tag
  | tagflags
  | length
  | crc
  | rxcrc
  | data8
  | data32
  | countLo
  | countHi
deriving DecidableEq, Repr

/-- `offset(REG)` (10_state.md R22). -/
def Reg.offset : Reg → Offset
  | .id => 0x00
  | .cmd => 0x04
  | .status => 0x08
  | .tag => 0x0C
  | .tagflags => 0x10
  | .length => 0x14
  | .crc => 0x18
  | .rxcrc => 0x1C
  | .data8 => 0x20
  | .data32 => 0x24
  | .countLo => 0x28
  | .countHi => 0x2C

/-- A line of the assembly language (30_encoding.md R90). A string is the list of its characters' ASCII
byte codes. -/
inductive AsmLine where
  | wr (r : Reg) (value : Word)
  | rd (r : Reg)
  | nop
  | abort
  | gen
  | parse
  | raw
  | finish
  | textchk
  | settag (c0 c1 c2 c3 : Byte)
  | push8 (value : Word)
  | push32 (value : Word)
  | pushstr (text : List Byte)
  | pushbe32 (value : Word)
  | expect (r : Reg) (value : Word)
deriving DecidableEq, Repr

/-- `wr REG, value`, which is `BusWrite(offset(REG), 4, value)` (30_encoding.md R90). -/
def wr (r : Reg) (value : Word) : BusOp := .write r.offset .four value

/-- `pushstr`: a `push32` of each full group of four bytes, then a `push8` of each of the rest
(30_encoding.md R90). -/
def expandStr : List Byte → List BusOp
  | b0 :: b1 :: b2 :: b3 :: rest => wr .data32 (wordOfBytes b0 b1 b2 b3) :: expandStr rest
  | rest => rest.map (fun b => wr .data8 (b.setWidth 32))

/-- The accesses a line stands for (30_encoding.md R90). -/
def AsmLine.expand : AsmLine → List BusOp
  | .wr r value => [Sys2Proof.Machine.wr r value]
  | .rd r => [.read r.offset .four]
  | .nop => [Sys2Proof.Machine.wr .cmd 0x0]
  | .abort => [Sys2Proof.Machine.wr .cmd 0x1]
  | .gen => [Sys2Proof.Machine.wr .cmd 0x2]
  | .parse => [Sys2Proof.Machine.wr .cmd 0x3]
  | .raw => [Sys2Proof.Machine.wr .cmd 0x4]
  | .finish => [Sys2Proof.Machine.wr .cmd 0x5]
  | .textchk => [Sys2Proof.Machine.wr .cmd 0x6]
  | .settag c0 c1 c2 c3 => [Sys2Proof.Machine.wr .tag (wordOfBytes c0 c1 c2 c3)]
  | .push8 value => [Sys2Proof.Machine.wr .data8 value]
  | .push32 value => [Sys2Proof.Machine.wr .data32 value]
  | .pushstr text => expandStr text
  | .pushbe32 value => [Sys2Proof.Machine.wr .data32 value]
  | .expect r _ => [.read r.offset .four]

/-- A program's accesses, in order. -/
def assemble (lines : List AsmLine) : List Event := (lines.flatMap AsmLine.expand).map .access

/-- What an `expect REG, v` line compares, after its read has returned (30_encoding.md R90). -/
def expectHolds (v : Word) (s : State) : Bool := s.reads.getLast? == some v

end Sys2Proof.Machine
end

