-- ==== Sys2Proof/Machine/Frame.lean ====
section
/-! DEFINITION. The frame (30_encoding.md R86) and PNGME's two whole-buffer operations the spec writes out
for the host: `encode()` of a held chunk (43_commands.md R184) and `decode(bytes)` (43_commands.md R179). -/

namespace Sys2Proof.Machine

/-- `frame(L, T, P, C) = be32(L) ++ be32(T) ++ P ++ be32(C)` (30_encoding.md R86). -/
def frame (len tag : Word) (payload : List Byte) (checksum : Word) : List Byte :=
  be32 len ++ be32 tag ++ payload ++ be32 checksum

/-- What the host emits for a held chunk, from the registers it reads and its own copy of the payload
(43_commands.md R184). -/
def encodeChunk (b : Block) (payload : List Byte) : List Byte :=
  frame (readRegister b 0x14) (readRegister b 0x0C) payload (readRegister b 0x18)

/-- The number a big-endian byte sequence stands for (20_memory.md R62). -/
def bigEndian (bs : List Byte) : Nat := bs.foldl (fun n b => n * 256 + b.toNat) 0

/-- The declared length of a buffer: its bytes [0,4) (43_commands.md R179, step 2). -/
def bufferLength (bs : List Byte) : Nat := bigEndian (bs.take 4)

/-- The tag bytes of a buffer: its bytes [4,8) (43_commands.md R179, step 2). -/
def bufferTag (bs : List Byte) : List Byte := (bs.drop 4).take 4

/-- The payload of a buffer: its bytes [8, 8+length) (43_commands.md R179, step 4). -/
def bufferPayload (bs : List Byte) : List Byte := (bs.drop 8).take (bufferLength bs)

/-- The checksum bytes of a buffer: the four after the declared payload (90_conflicts.md C6). -/
def bufferChecksum (bs : List Byte) : List Byte := (bs.drop (8 + bufferLength bs)).take 4

/-- `decode(bytes)` on a whole buffer, PNGME's steps in PNGME's order (43_commands.md R179): `ok` or the
first check that fails. -/
def decodeBuffer (bs : List Byte) : ErrCode :=
  if bs.length < 12 then .truncatedInput
  else if (bufferTag bs).any (fun b => !alpha b) then .invalidTag
  else if bs.length ≠ 12 + bufferLength bs then .lengthMismatch
  else if crc32 (bufferTag bs ++ bufferPayload bs) ≠ BitVec.ofNat 32 (bigEndian (bufferChecksum bs)) then
    .checksumMismatch
  else .ok

end Sys2Proof.Machine
end

