-- ==== Sys2Proof/Safety.lean ====
section
/-! DEFINITION. The terms the statements use: the state after an outcome, the host's pushes and sessions,
the list of refused accesses, well-formed UTF-8, and the invariant of the state. -/

namespace Sys2Proof.Machine

/-- The next state of an outcome, where there is one. -/
def nextOf (o : Host.Outcome State Fault Refusal) : Option State :=
  match o with
  | .next s => some s
  | .fault _ => none
  | .refused _ => none

/-! ### What a host does -/

/-- The event of `BusWrite(off, 4, data)`. -/
def busWord (off : Offset) (data : Word) : Event := .access (.write off .four data)

/-- One accepted form of pushing: a word written to DATA8 or to DATA32 (00_scope.md R12). -/
inductive PushOp where
  | data8 (w : Word)
  | data32 (w : Word)
deriving DecidableEq, Repr

/-- The access of a push. -/
def PushOp.event : PushOp → Event
  | .data8 w => busWord 0x20 w
  | .data32 w => busWord 0x24 w

/-- The bytes a push hands to the block: bits 7:0 of a DATA8 word (10_state.md R36), the four bytes of a
DATA32 word, bits 31:24 first (R37). -/
def PushOp.bytes : PushOp → List Byte
  | .data8 w => [w.extractLsb' 0 8]
  | .data32 w => [w.extractLsb' 24 8, w.extractLsb' 16 8, w.extractLsb' 8 8, w.extractLsb' 0 8]

/-- The bytes of a list of pushes, in order. -/
def pushedBytes (ps : List PushOp) : List Byte := ps.flatMap PushOp.bytes

/-- A session (00_scope.md R12): the start command, the pushes, FINISH. -/
def session (startOp : Word) (ps : List PushOp) : List Event :=
  busWord 0x04 startOp :: ps.map PushOp.event ++ [busWord 0x04 0x5]

/-- The block can take a start command now: no session is open and reset is released. -/
abbrev State.ready (s : State) : Prop :=
  s.resetHeld = false ∧ (s.blk.st = .idle ∨ s.blk.st = .done)

/-- `k` steps in a row: the host's `Core.run` on this machine (`runSteps_eq_run`), at the model's own
types. -/
def runSteps : Nat → State → Host.Outcome State Fault Refusal
  | 0, s => .next s
  | k + 1, s =>
    match step s with
    | .next t => runSteps k t
    | .fault r => .fault r
    | .refused r => .refused r

/-- The fold of the access rules over a sequence of events (20_memory.md R72): each handled whole, in
order, whatever waits behind it. -/
def foldEvents : List Event → State → Host.Outcome State Fault Refusal
  | [], s => .next s
  | e :: es, s =>
    match deliver e s with
    | .next t => foldEvents es t
    | .fault r => .fault r
    | .refused r => .refused r

/-! ### Classes of operations -/

/-- A start command: GEN, PARSE or RAW (00_scope.md R12). -/
abbrev startsSession (i : Instr) : Prop := i = .gen ∨ i = .parse ∨ i = .raw

/-- A push (00_scope.md R12). -/
abbrev isPush (i : Instr) : Prop :=
  (∃ ign b, i = .push8 ign b) ∨ (∃ b0 b1 b2 b3, i = .push32 b0 b1 b2 b3)

/-- A TAG write (40_tag.md R106). -/
abbrev isTagWrite (i : Instr) : Prop := ∃ b0 b1 b2 b3, i = .tagw b0 b1 b2 b3

/-! ### Refusals -/

/-- The complete list of 60_exceptions.md R203, causes 1 to 11, over the decoded operations: causes 1 and
2 are `wrNarrowOrMisaligned`, 3 and 4 `wrRefused`, 5 `reservedCmdMbz`, 6 `reservedCmd7` and
`reservedCmd8F`, 7 the start commands in a session, 8 FINISH outside one, 9 TEXTCHK without a valid chunk
of GEN or PARSE, 10 a push outside a session, 11 a TAG write in one. -/
def refusedIn (i : Instr) (b : Block) : Prop :=
  match i with
  | .wrNarrowOrMisaligned _ _ _ => True
  | .wrRefused _ _ => True
  | .reservedCmdMbz _ _ => True
  | .reservedCmd7 => True
  | .reservedCmd8F _ => True
  | .gen | .parse | .raw => b.st = .gen ∨ b.st = .parse ∨ b.st = .raw
  | .finish => b.st = .idle ∨ b.st = .done
  | .textchk =>
    ¬ (b.st = .done ∧ (b.lastop = .gen ∨ b.lastop = .parse) ∧ (b.err = .ok ∨ b.err = .notUtf8Text))
  | .push8 _ _ | .push32 _ _ _ _ => b.st = .idle ∨ b.st = .done
  | .tagw _ _ _ _ => b.st = .gen ∨ b.st = .parse ∨ b.st = .raw
  | .nop => False
  | .abort => False
  | .rd _ _ => False

/-! ### Well-formed UTF-8 -/

/-- The rows of 42_stream.md R151: for each byte of a character its lowest and highest value. -/
def utf8Rows : List (List (Byte × Byte)) :=
  [ [(0x00, 0x7F)],
    [(0xC2, 0xDF), (0x80, 0xBF)],
    [(0xE0, 0xE0), (0xA0, 0xBF), (0x80, 0xBF)],
    [(0xE1, 0xEC), (0x80, 0xBF), (0x80, 0xBF)],
    [(0xED, 0xED), (0x80, 0x9F), (0x80, 0xBF)],
    [(0xEE, 0xEF), (0x80, 0xBF), (0x80, 0xBF)],
    [(0xF0, 0xF0), (0x90, 0xBF), (0x80, 0xBF), (0x80, 0xBF)],
    [(0xF1, 0xF3), (0x80, 0xBF), (0x80, 0xBF), (0x80, 0xBF)],
    [(0xF4, 0xF4), (0x80, 0x8F), (0x80, 0xBF), (0x80, 0xBF)] ]

/-- A byte sequence is an instance of a row: as many bytes, each in its range. -/
def matchesRow (row : List (Byte × Byte)) (bs : List Byte) : Prop :=
  List.Forall₂ (fun r b => r.1 ≤ b ∧ b ≤ r.2) row bs

/-- "A byte sequence is well-formed exactly when it is a concatenation of rows of this table"
(42_stream.md R151). -/
inductive WellFormedUtf8 : List Byte → Prop where
  | empty : WellFormedUtf8 []
  | char (row : List (Byte × Byte)) (bs rest : List Byte) (mem : row ∈ utf8Rows)
      (fits : matchesRow row bs) (more : WellFormedUtf8 rest) : WellFormedUtf8 (bs ++ rest)

/-! ### The invariant -/

/-- "Whenever `pend = 0` they hold 0x80 and 0xBF" (10_state.md R40), and an ill-formed sequence is BAD
(42_stream.md R150). -/
abbrev Utf8.canonical (u : Utf8) : Prop :=
  (u.pend = 0 → u.lo = 0x80 ∧ u.hi = 0xBF) ∧ (u.bad = true → u.pend = 0)

/-- LASTOP is none exactly outside DONE (10_state.md R29). -/
abbrev Block.lastopFits (b : Block) : Prop := b.lastop = .none ↔ b.st ≠ .done

/-- Outside DONE there is no result code (43_commands.md R172, R173; 40_tag.md R106). -/
abbrev Block.errFits (b : Block) : Prop :=
  (b.st ≠ .done → b.err = .ok) ∧ (b.err = .notUtf8Text → b.u8.ok = false)

/-- In GEN and RAW nothing has written LENGTH or RXCRC since the start command (42_stream.md R154). -/
abbrev Block.openSessionFits (b : Block) : Prop :=
  b.st = .gen ∨ b.st = .raw → b.length = 0 ∧ b.rxcrc = 0

/-- DONE after GEN (43_commands.md R178, R181). -/
abbrev Block.doneGenFits (b : Block) : Prop :=
  b.st = .done ∧ b.lastop = .gen →
    b.length.toNat = b.count.toNat % 2 ^ 32 ∧ b.rxcrc = 0 ∧
    (0xFFFFFFFF < b.count.toNat → b.err = .lengthOverflow) ∧
    (b.count.toNat ≤ 0xFFFFFFFF → b.err = .ok ∨ b.err = .notUtf8Text)

/-- What each result code says of a finished PARSE (60_exceptions.md R201): a code is written only when
the checks before it passed (43_commands.md R179). -/
def Block.parseResultHolds (b : Block) : Bool :=
  let n := b.count.toNat
  let valid := tagValid b.tag
  match b.err with
  | .truncatedInput => n < 12
  | .invalidTag => 12 ≤ n && !valid
  | .lengthMismatch => 12 ≤ n && valid && n != 12 + b.length.toNat
  | .checksumMismatch => valid && n == 12 + b.length.toNat && crcFinal b.crc != b.rxcrc
  | .ok => valid && n == 12 + b.length.toNat && crcFinal b.crc == b.rxcrc
  | .notUtf8Text => valid && n == 12 + b.length.toNat && crcFinal b.crc == b.rxcrc
  | .lengthOverflow => false

/-- DONE after PARSE (43_commands.md R179, R181). -/
abbrev Block.doneParseFits (b : Block) : Prop :=
  b.st = .done ∧ b.lastop = .parse → b.parseResultHolds = true

/-- DONE after RAW (43_commands.md R180). -/
abbrev Block.doneRawFits (b : Block) : Prop :=
  b.st = .done ∧ b.lastop = .raw → b.length = 0 ∧ b.rxcrc = 0 ∧ b.err = .ok

/-- The invariant of the block's state tuple. -/
abbrev Block.Inv (b : Block) : Prop :=
  b.u8.canonical ∧ b.lastopFits ∧ b.errFits ∧ b.openSessionFits ∧ b.doneGenFits ∧ b.doneParseFits ∧
    b.doneRawFits

/-- The invariant of the machine's state: the block's, and a block whose reset stays asserted is at its
reset values (70_reset_and_hazards.md R230, R233). -/
abbrev State.Inv (s : State) : Prop :=
  s.blk.Inv ∧ (s.resetHeld = true → s.blk = Block.reset)

end Sys2Proof.Machine
end

