-- ==== Sys2Proof/Certificates/Slice0/Obligations.lean ====
section
/-! DEFINITION. The statements for the provers. -/

open Sys2Proof Sys2Proof.Machine

/-! ### Encoding -/

/-- Decoding the access that encodes a well-formed operation gives the operation back, with every operand
(30_encoding.md R80 to R84, R91). -/
def Obligations.DecodeOfEncodeGivesTheOperation : Prop :=
  ∀ i : Instr, i.wf = true → decode (encode i) = i

/-- Every access decodes to a well-formed operation that encodes it: each encoding has one meaning
(30_encoding.md R88, R91). -/
def Obligations.EveryAccessIsOneOperation : Prop :=
  ∀ op : BusOp, (decode op).wf = true ∧ encode (decode op) = op

/-- Words written out from the formats of 30_encoding.md and the rows of opcode_table.json. -/
def Obligations.SampleAccessesDecode : Prop :=
  decode (.write 0x04 .four 0x00000005) = .finish ∧
  decode (.write 0x04 .four 0x0000000C) = .reservedCmd8F 4 ∧
  decode (.write 0x04 .four 0x00000012) = .reservedCmdMbz 1 2 ∧
  decode (.write 0x0C .four 0x52755374) = .tagw 0x52 0x75 0x53 0x74 ∧
  decode (.write 0x20 .four 0xFFFFFF61) = .push8 0xFFFFFF 0x61 ∧
  decode (.write 0x24 .four 0x68656C6F) = .push32 0x68 0x65 0x6C 0x6F ∧
  decode (.write 0x14 .four 0x00000001) = .wrRefused 0x14 0x00000001 ∧
  decode (.write 0x0C .two 0x00003344) = .wrNarrowOrMisaligned 0x0C .two 0x00003344 ∧
  decode (.read 0x08 .four) = .rd 0x08 .four

/-- 30_encoding.md R81: OP is bits 3:0, bits 31:4 must be zero, and a word in which they are not is
refused with PERR and no command executes. -/
def Obligations.CmdWordSelectsTheCommand : Prop :=
  decode (.write 0x04 .four 0x0) = .nop ∧
  decode (.write 0x04 .four 0x1) = .abort ∧
  decode (.write 0x04 .four 0x2) = .gen ∧
  decode (.write 0x04 .four 0x3) = .parse ∧
  decode (.write 0x04 .four 0x4) = .raw ∧
  decode (.write 0x04 .four 0x5) = .finish ∧
  decode (.write 0x04 .four 0x6) = .textchk ∧
  decode (.write 0x04 .four 0x7) = .reservedCmd7 ∧
  (∀ data : Word, 0x8 ≤ data.toNat → data.toNat ≤ 0xF →
    decode (.write 0x04 .four data) = .reservedCmd8F (BitVec.ofNat 3 (data.toNat - 8))) ∧
  (∀ data : Word, 0x10 ≤ data.toNat →
    decode (.write 0x04 .four data)
      = .reservedCmdMbz (BitVec.ofNat 28 (data.toNat / 16)) (BitVec.ofNat 4 (data.toNat % 16)) ∧
    ∀ s : State, exec (decode (.write 0x04 .four data)) s
      = .next { s with blk := { s.blk with perr := true } })

/-- 20_memory.md R63: the window holds 0x40 bytes from BASE; an access outside it does not reach the
block, one inside it waits behind the others as an access at the bus address minus BASE. -/
def Obligations.OnlyWindowAccessesReachTheBlock : Prop :=
  ∀ (s : State) (addr : Nat) (data : Word),
    ((addr < Config.base ∨ Config.base + 0x40 ≤ addr) → ∀ size : Nat,
      s.submit (.read addr size) = s ∧ s.submit (.write addr size data) = s) ∧
    (∀ off : Offset, addr = Config.base + off.toNat → ∀ (size : Nat) (sz : AccessSize),
      ((size = 1 ∧ sz = .one) ∨ (size = 2 ∧ sz = .two) ∨ (size = 4 ∧ sz = .four)) →
      s.submit (.read addr size) = { s with pending := s.pending ++ [.access (.read off sz)] } ∧
      s.submit (.write addr size data)
        = { s with pending := s.pending ++ [.access (.write off sz data)] })

/-! ### The step -/

/-- An access at the head of the port, with reset released, runs its decoded operation on the state with
the access taken off; the decoded operation is well-formed. -/
def Obligations.StepRunsTheDecodedOperation : Prop :=
  ∀ (s : State) (op : BusOp) (rest : List Event),
    s.pending = .access op :: rest → s.resetHeld = false →
    (decode op).wf = true ∧ step s = exec (decode op) { s with pending := rest }

/-- 00_scope.md R13: the engine takes a step only in response to an access or to reset. -/
def Obligations.NoEventNoChange : Prop :=
  ∀ s : State, s.pending = [] → step s = .next s

/-- 70_reset_and_hazards.md R238: the block never halts and never hangs. Every operation and every step
answers a next state. -/
def Obligations.EveryOperationAnswersANextState : Prop :=
  (∀ (i : Instr) (s : State), ∃ t, exec i s = .next t) ∧ (∀ s : State, ∃ t, step s = .next t)

/-- 20_memory.md R72: the state after a sequence of accesses and resets is the left fold of the access
rules over that sequence, whatever waits behind it. -/
def Obligations.RunIsTheFoldOfTheAccessRules : Prop :=
  ∀ (es rest : List Event) (s : State),
    ∃ t, foldEvents es { s with pending := [] } = .next t ∧
      runSteps es.length { s with pending := es ++ rest }
        = .next { t with pending := rest }

/-! ### Reset -/

/-- 70_reset_and_hazards.md R230, right after reset: every element of the tuple, and what the registers
read. -/
def Obligations.ResetStateHoldsTheSpecValues : Prop :=
  State.reset.blk.st = .idle ∧ State.reset.blk.err = .ok ∧ State.reset.blk.lastop = .none ∧
  State.reset.blk.perr = false ∧ State.reset.blk.tag = 0x00000000 ∧
  State.reset.blk.length = 0x00000000 ∧ State.reset.blk.rxcrc = 0x00000000 ∧
  State.reset.blk.count = 0 ∧ State.reset.blk.crc = 0xFFFFFFFF ∧
  State.reset.blk.u8 = { pend := 0, lo := 0x80, hi := 0xBF, bad := false } ∧
  busRead State.reset.blk 0x00 .four = 0x504E4743 ∧
  busRead State.reset.blk 0x08 .four = 0x00000400 ∧
  busRead State.reset.blk 0x10 .four = 0x0000000E ∧
  ∀ off ∈ [(0x04 : Offset), 0x0C, 0x14, 0x18, 0x1C, 0x20, 0x24, 0x28, 0x2C, 0x30, 0x34, 0x38, 0x3C],
    busRead State.reset.blk off .four = 0x00000000

/-- 70_reset_and_hazards.md R230: reset sets every element to its reset value, from every state. What
waits and what was read stay (the model's choice, log entry 3). -/
def Obligations.ResetRestoresEveryElement : Prop :=
  ∀ (s : State) (rest : List Event), s.pending = .reset :: rest →
    step s = .next { s with
      blk := { st := .idle, err := .ok, lastop := .none, perr := false, tag := 0x00000000,
               length := 0x00000000, rxcrc := 0x00000000, count := 0, crc := 0xFFFFFFFF,
               u8 := { pend := 0, lo := 0x80, hi := 0xBF, bad := false } }
      pending := rest
      resetHeld := false }

/-- 70_reset_and_hazards.md R233: a write that meets reset leaves no trace; a read that meets it returns
the value before or the value after; while reset stays asserted an access is lost. The values the draw
and the lost read give are free (log entries 4 and 5). -/
def Obligations.AccessAgainstReset : Prop :=
  ∀ (s : State) (rest : List Event) (off : Offset) (size : AccessSize) (data : Word),
    (s.resetHeld = false → s.pending = .assertReset (some (.write off size data)) :: rest →
      step s = .next { s with blk := Block.reset, pending := rest, resetHeld := true }) ∧
    (s.resetHeld = false → s.pending = .assertReset (some (.read off size)) :: rest →
      ∃ t v, step s = .next t ∧ t.blk = Block.reset ∧ t.pending = rest ∧ t.resetHeld = true ∧
        t.reads = s.reads ++ [v] ∧ (v = busRead s.blk off size ∨ v = busRead Block.reset off size)) ∧
    (s.resetHeld = true → s.pending = .access (.write off size data) :: rest →
      step s = .next { s with pending := rest }) ∧
    (s.resetHeld = true → s.pending = .access (.read off size) :: rest →
      ∃ t v, step s = .next t ∧ t.blk = s.blk ∧ t.pending = rest ∧ t.resetHeld = true ∧
        t.reads = s.reads ++ [v])

/-! ### Reads and the registers -/

/-- 20_memory.md R65: what a read returns at every offset and width, and that it changes no state of the
block. STATUS and TAGFLAGS have statements of their own. -/
def Obligations.ReadReturnsTheRegister : Prop :=
  ∀ (s : State) (off : Offset) (size : AccessSize),
    exec (.rd off size) s = .next { s with reads := s.reads ++
      [if size ≠ .four ∨ off.toNat % 4 ≠ 0 then 0x00000000
       else if off = 0x00 then 0x504E4743
       else if off = 0x08 then status s.blk
       else if off = 0x0C then s.blk.tag
       else if off = 0x10 then tagFlags s.blk.tag
       else if off = 0x14 then s.blk.length
       else if off = 0x18 then s.blk.crc ^^^ 0xFFFFFFFF
       else if off = 0x1C then s.blk.rxcrc
       else if off = 0x28 then s.blk.count.setWidth 32
       else if off = 0x2C then (s.blk.count >>> 32).setWidth 32
       else 0x00000000] }

/-- 10_state.md R25: `STATE | ERR<<4 | LASTOP<<8 | UTF8_OK<<10 | PERR<<11`, with the codes of R26, R28 and
R29; every other bit reads 0. -/
def Obligations.StatusIsTheSumOfItsFields : Prop :=
  ∀ b : Block,
    (busRead b 0x08 .four).toNat
      = (match b.st with | .idle => 0 | .gen => 1 | .parse => 2 | .raw => 3 | .done => 4)
        + 16 * (match b.err with
            | .ok => 0 | .invalidTag => 1 | .truncatedInput => 2 | .lengthMismatch => 3
            | .checksumMismatch => 4 | .notUtf8Text => 5 | .lengthOverflow => 6)
        + 256 * (match b.lastop with | .none => 0 | .gen => 1 | .parse => 2 | .raw => 3)
        + 1024 * (if b.u8.bad = false ∧ b.u8.pend = 0 then 1 else 0)
        + 2048 * (if b.perr = true then 1 else 0)

/-- 40_tag.md R100 to R105 and 10_state.md R32: each TAGFLAGS bit from the bits of TAG, the rest 0. -/
def Obligations.TagFlagsClassifyTheTag : Prop :=
  ∀ b : Block,
    ((busRead b 0x10 .four).getLsbD 0 = true ↔
      ∀ n < 4, (0x41 ≤ b.tag.toNat / 256 ^ n % 256 ∧ b.tag.toNat / 256 ^ n % 256 ≤ 0x5A) ∨
        (0x61 ≤ b.tag.toNat / 256 ^ n % 256 ∧ b.tag.toNat / 256 ^ n % 256 ≤ 0x7A)) ∧
    (busRead b 0x10 .four).getLsbD 1 = !b.tag.getLsbD 29 ∧
    (busRead b 0x10 .four).getLsbD 2 = !b.tag.getLsbD 21 ∧
    (busRead b 0x10 .four).getLsbD 3 = !b.tag.getLsbD 13 ∧
    (busRead b 0x10 .four).getLsbD 4 = b.tag.getLsbD 5 ∧
    (busRead b 0x10 .four).toNat < 32

/-- 40_tag.md R111: "RuSt" is critical, private, reserved valid and safe to copy. -/
def Obligations.RuStIsCriticalPrivateAndSafeToCopy : Prop :=
  tagFlags (wordOfBytes 0x52 0x75 0x53 0x74) = 0x1B ∧
  tagCritical 0x52755374 = true ∧ tagPublic 0x52755374 = false ∧
  tagReservedValid 0x52755374 = true ∧ tagSafeToCopy 0x52755374 = true

/-! ### Refusals -/

/-- 20_memory.md R64: which writes are refused, and where the others go. -/
def Obligations.WriteIsRefusedOrGoesToItsRegister : Prop :=
  ∀ (off : Offset) (size : AccessSize) (data : Word),
    ((size ≠ .four ∨ off.toNat % 4 ≠ 0 ∨
      off ∈ [(0x00 : Offset), 0x08, 0x10, 0x14, 0x18, 0x1C, 0x28, 0x2C] ∨
      off ∈ [(0x30 : Offset), 0x34, 0x38, 0x3C]) →
      ∀ s : State, exec (decode (.write off size data)) s
        = .next { s with blk := { s.blk with perr := true } }) ∧
    (¬ (size ≠ .four ∨ off.toNat % 4 ≠ 0 ∨
      off ∈ [(0x00 : Offset), 0x08, 0x10, 0x14, 0x18, 0x1C, 0x28, 0x2C] ∨
      off ∈ [(0x30 : Offset), 0x34, 0x38, 0x3C]) →
      (off = 0x04 ∧ decode (.write off size data) = decodeCmd data) ∨
      (off = 0x0C ∧ ∃ b0 b1 b2 b3, decode (.write off size data) = .tagw b0 b1 b2 b3 ∧
        b0 ++ b1 ++ b2 ++ b3 = data) ∨
      (off = 0x20 ∧ ∃ ign b, decode (.write off size data) = .push8 ign b ∧ ign ++ b = data) ∨
      (off = 0x24 ∧ ∃ b0 b1 b2 b3, decode (.write off size data) = .push32 b0 b1 b2 b3 ∧
        b0 ++ b1 ++ b2 ++ b3 = data))

/-- 43_commands.md R182: the reserved opcodes 0x7 to 0xF and every CMD word with bits 31:4 nonzero set
PERR in every state and change nothing else. -/
def Obligations.ReservedCommandsOnlySetPerr : Prop :=
  ∀ (s : State) (low : BitVec 3) (mbz : BitVec 28) (op : BitVec 4),
    exec .reservedCmd7 s = .next { s with blk := { s.blk with perr := true } } ∧
    exec (.reservedCmd8F low) s = .next { s with blk := { s.blk with perr := true } } ∧
    exec (.reservedCmdMbz mbz op) s = .next { s with blk := { s.blk with perr := true } } ∧
    (∀ data : Word, 0x7 ≤ data.toNat → exec (decode (.write 0x04 .four data)) s
      = .next { s with blk := { s.blk with perr := true } })

/-- 20_memory.md R64, the operations' own form: a write to a read-only or reserved slot and a narrow or
misaligned write set PERR and change nothing else. -/
def Obligations.RefusedWritesOnlySetPerr : Prop :=
  ∀ (s : State) (off : Offset) (size : AccessSize) (data : Word),
    exec (.wrRefused off data) s = .next { s with blk := { s.blk with perr := true } } ∧
    exec (.wrNarrowOrMisaligned off size data) s = .next { s with blk := { s.blk with perr := true } }

/-- 60_exceptions.md R203: exactly the listed accesses are refused. A refused one sets PERR and changes
nothing else; any other leaves PERR as it was, ABORT aside, which clears it. -/
def Obligations.RefusedAccessesAreExactlyTheListed : Prop :=
  ∀ (i : Instr) (s : State),
    (refusedIn i s.blk → exec i s = .next { s with blk := { s.blk with perr := true } }) ∧
    (¬ refusedIn i s.blk → ∃ t, exec i s = .next t ∧
      (i ≠ .abort → t.blk.perr = s.blk.perr) ∧ (i = .abort → t.blk.perr = false))

/-- 10_state.md R27: PERR is sticky. A step that takes it from 1 to 0 handles a reset or an ABORT, both of
which clear it; STATUS[11] shows it. -/
def Obligations.OnlyAbortAndResetClearPerr : Prop :=
  (∀ s t : State, step s = .next t → s.blk.perr = true → t.blk.perr = false →
    ∃ e rest, s.pending = e :: rest ∧
      (e = .reset ∨ (∃ meeting, e = .assertReset meeting) ∨
        ∃ op, e = .access op ∧ decode op = .abort ∧ s.resetHeld = false)) ∧
  (∀ s : State, ∃ t, exec .abort s = .next t ∧ t.blk.perr = false) ∧
  (∀ (s : State) (meeting : Option BusOp) (rest : List Event),
    (s.pending = .reset :: rest ∨ s.pending = .assertReset meeting :: rest) →
    ∃ t, step s = .next t ∧ t.blk.perr = false) ∧
  (∀ b : Block, (busRead b 0x08 .four).getLsbD 11 = b.perr)

/-! ### Who writes what -/

/-- Each element of the state changes only by the operations the spec lets write it: STATE (10_state.md
R26), ERR (R28), LASTOP (R29), TAG (R31), LENGTH (R33), RXCRC (R35), COUNT (R38), the CRC register and the
UTF-8 validator (42_stream.md R142, 43_commands.md R173); the port, reset and the draws not at all, and
the observation only by a read. -/
def Obligations.EachElementHasOnlyItsWriters : Prop :=
  ∀ (i : Instr) (s t : State), exec i s = .next t →
    (t.blk.st ≠ s.blk.st → i = .abort ∨ startsSession i ∨ i = .finish ∨
      (isTagWrite i ∧ s.blk.st = .done)) ∧
    (t.blk.err ≠ s.blk.err → i = .abort ∨ startsSession i ∨ i = .finish ∨ i = .textchk ∨
      (isTagWrite i ∧ s.blk.st = .done)) ∧
    (t.blk.lastop ≠ s.blk.lastop → i = .abort ∨ startsSession i ∨ i = .finish ∨
      (isTagWrite i ∧ s.blk.st = .done)) ∧
    (t.blk.tag ≠ s.blk.tag → (isTagWrite i ∧ (s.blk.st = .idle ∨ s.blk.st = .done)) ∨ i = .parse ∨
      (isPush i ∧ s.blk.st = .parse)) ∧
    (t.blk.length ≠ s.blk.length → startsSession i ∨ (i = .finish ∧ s.blk.st = .gen) ∨
      (isPush i ∧ s.blk.st = .parse)) ∧
    (t.blk.rxcrc ≠ s.blk.rxcrc → startsSession i ∨ (isPush i ∧ s.blk.st = .parse)) ∧
    (t.blk.count ≠ s.blk.count → startsSession i ∨ isPush i) ∧
    (t.blk.crc ≠ s.blk.crc → startsSession i ∨ isPush i) ∧
    (t.blk.u8 ≠ s.blk.u8 → startsSession i ∨ isPush i) ∧
    (t.reads ≠ s.reads → ∃ off size, i = .rd off size) ∧
    t.pending = s.pending ∧ t.resetHeld = s.resetHeld ∧ t.draws = s.draws

/-! ### TAG -/

/-- 40_tag.md R106: TAGW in each state. The word written is stored as it is (30_encoding.md R82). -/
def Obligations.TagWriteInEachState : Prop :=
  ∀ (s : State) (data : Word),
    (∃ b0 b1 b2 b3, decode (.write 0x0C .four data) = .tagw b0 b1 b2 b3) ∧
    (s.blk.st = .idle → exec (decode (.write 0x0C .four data)) s
      = .next { s with blk := { s.blk with tag := data } }) ∧
    (s.blk.st = .done → exec (decode (.write 0x0C .four data)) s
      = .next { s with blk := { s.blk with tag := data, st := .idle, err := .ok, lastop := .none } }) ∧
    (s.blk.st = .gen ∨ s.blk.st = .parse ∨ s.blk.st = .raw →
      exec (decode (.write 0x0C .four data)) s = .next { s with blk := { s.blk with perr := true } })

/-- TAGW as an operation: it completes outside a session with each of its four bytes in place, byte 0 the
most significant (30_encoding.md R82, 40_tag.md R106). -/
def Obligations.TagBytesGoMostSignificantFirst : Prop :=
  ∀ (s : State) (b0 b1 b2 b3 : Byte), s.blk.st = .idle ∨ s.blk.st = .done →
    ∃ t, exec (.tagw b0 b1 b2 b3) s = .next t ∧
      t.blk.tag.toNat = b0.toNat * 2 ^ 24 + b1.toNat * 2 ^ 16 + b2.toNat * 2 ^ 8 + b3.toNat ∧
      t = { s with blk := { s.blk with
        tag := t.blk.tag
        st := .idle
        err := if s.blk.st = .done then .ok else s.blk.err
        lastop := if s.blk.st = .done then .none else s.blk.lastop } }

/-! ### Pushes -/

/-- 42_stream.md R148 and R140: a byte pushed in GEN or RAW is fed to the CRC and the validator and
counted; PUSH8 outside a session is refused; bits 31:8 of the word change nothing (30_encoding.md R83). -/
def Obligations.Push8OutsideParse : Prop :=
  ∀ (s : State) (ign : BitVec 24) (b : Byte),
    (s.blk.st = .gen ∨ s.blk.st = .raw → exec (.push8 ign b) s
      = .next { s with blk := { s.blk with
          crc := crcStep s.blk.crc b, u8 := u8Step s.blk.u8 b, count := s.blk.count + 1 } }) ∧
    (s.blk.st = .idle ∨ s.blk.st = .done → exec (.push8 ign b) s
      = .next { s with blk := { s.blk with perr := true } }) ∧
    (∀ ign' : BitVec 24, exec (.push8 ign b) s = exec (.push8 ign' b) s)

/-- 42_stream.md R142: a byte pushed in PARSE goes where its frame offset says. -/
def Obligations.Push8InParseFollowsTheFrameOffset : Prop :=
  ∀ (s : State) (ign : BitVec 24) (b : Byte), s.blk.st = .parse →
    (s.blk.count.toNat < 4 → exec (.push8 ign b) s
      = .next { s with blk := { s.blk with
          length := BitVec.ofNat 32 (s.blk.length.toNat * 256 + b.toNat),
          count := s.blk.count + 1 } }) ∧
    (4 ≤ s.blk.count.toNat → s.blk.count.toNat < 8 → exec (.push8 ign b) s
      = .next { s with blk := { s.blk with
          tag := BitVec.ofNat 32 (s.blk.tag.toNat * 256 + b.toNat),
          crc := crcStep s.blk.crc b, count := s.blk.count + 1 } }) ∧
    (8 ≤ s.blk.count.toNat → s.blk.count.toNat < 8 + s.blk.length.toNat → exec (.push8 ign b) s
      = .next { s with blk := { s.blk with
          crc := crcStep s.blk.crc b, u8 := u8Step s.blk.u8 b, count := s.blk.count + 1 } }) ∧
    (8 + s.blk.length.toNat ≤ s.blk.count.toNat → s.blk.count.toNat < 12 + s.blk.length.toNat →
      exec (.push8 ign b) s
      = .next { s with blk := { s.blk with
          rxcrc := BitVec.ofNat 32 (s.blk.rxcrc.toNat * 256 + b.toNat),
          count := s.blk.count + 1 } }) ∧
    (12 + s.blk.length.toNat ≤ s.blk.count.toNat → exec (.push8 ign b) s
      = .next { s with blk := { s.blk with count := s.blk.count + 1 } })

/-- 30_encoding.md R84: a word written to DATA32 has the effect of its four bytes written to DATA8, bits
31:24 first, in every state. -/
def Obligations.Push32IsFourPush8 : Prop :=
  ∀ (s : State) (w : Word), ∃ s1 s2 s3 s4 : State,
    exec (decode (.write 0x20 .four ((w.extractLsb' 24 8).setWidth 32))) s = .next s1 ∧
    exec (decode (.write 0x20 .four ((w.extractLsb' 16 8).setWidth 32))) s1 = .next s2 ∧
    exec (decode (.write 0x20 .four ((w.extractLsb' 8 8).setWidth 32))) s2 = .next s3 ∧
    exec (decode (.write 0x20 .four ((w.extractLsb' 0 8).setWidth 32))) s3 = .next s4 ∧
    exec (decode (.write 0x24 .four w)) s = .next s4

/-- 42_stream.md R141: PUSH32 in an open session handles four bytes, its first operand first, and changes
nothing outside the stream's elements; outside a session it is refused and none is pushed. -/
def Obligations.Push32CompletesInASession : Prop :=
  ∀ (s : State) (b0 b1 b2 b3 : Byte),
    (s.blk.st = .gen ∨ s.blk.st = .raw → exec (.push32 b0 b1 b2 b3) s
      = .next { s with blk := { s.blk with
          crc := crcStep (crcStep (crcStep (crcStep s.blk.crc b0) b1) b2) b3,
          u8 := u8Step (u8Step (u8Step (u8Step s.blk.u8 b0) b1) b2) b3,
          count := s.blk.count + 4 } }) ∧
    (s.blk.st = .parse → ∃ len tag rx crc u8, exec (.push32 b0 b1 b2 b3) s
      = .next { s with blk := { s.blk with
          length := len, tag := tag, rxcrc := rx, crc := crc, u8 := u8, count := s.blk.count + 4 } }) ∧
    (s.blk.st = .idle ∨ s.blk.st = .done → exec (.push32 b0 b1 b2 b3) s
      = .next { s with blk := { s.blk with perr := true } })

/-- 42_stream.md R143: after its four bytes the length field is the big-endian number they stand for, and
neither the CRC nor the validator has seen them. -/
def Obligations.LengthFieldIsBigEndian : Prop :=
  ∀ (s : State) (b0 b1 b2 b3 : Byte), s.blk.st = .parse → s.blk.count = 0 →
    exec (.push32 b0 b1 b2 b3) s = .next { s with blk := { s.blk with
      length := BitVec.ofNat 32
        (b0.toNat * 2 ^ 24 + b1.toNat * 2 ^ 16 + b2.toNat * 2 ^ 8 + b3.toNat),
      count := 4 } }

/-- 42_stream.md R153: once offset 3 has been pushed no later byte of PARSE changes LENGTH, as long as
COUNT does not wrap (R149, log entry 7). -/
def Obligations.LengthIsFinalAfterOffsetThree : Prop :=
  ∀ (i : Instr) (s t : State), isPush i → s.blk.st = .parse → 4 ≤ s.blk.count.toNat →
    s.blk.count.toNat + 4 ≤ 2 ^ 64 → exec i s = .next t → t.blk.length = s.blk.length

/-- 42_stream.md R150: once the validator has seen an ill-formed byte it stays ill-formed until a start
command restarts it. -/
def Obligations.IllFormedUtf8IsSticky : Prop :=
  ∀ (i : Instr) (s t : State), exec i s = .next t → s.blk.u8.bad = true →
    t.blk.u8.bad = true ∨ (startsSession i ∧ t.blk.u8 = { pend := 0, lo := 0x80, hi := 0xBF, bad := false })

/-! ### Commands -/

/-- 43_commands.md R171. -/
def Obligations.NopChangesNothing : Prop :=
  decode (.write 0x04 .four 0x00000000) = .nop ∧
  (∀ s : State, exec .nop s = .next s) ∧
  (∀ s : State, exec (decode (.write 0x04 .four 0x00000010)) s
    = .next { s with blk := { s.blk with perr := true } })

/-- 43_commands.md R172: ABORT runs in every state, clears STATE, ERR, LASTOP and PERR, and keeps the
rest. -/
def Obligations.AbortReturnsToIdleAndClearsPerr : Prop :=
  decode (.write 0x04 .four 0x00000001) = .abort ∧
  ∀ s : State, exec .abort s
    = .next { s with blk := { s.blk with st := .idle, err := .ok, lastop := .none, perr := false } }

/-- 43_commands.md R174: GEN folds the four tag bytes into the CRC before any payload byte, and does not
check, count or validate them. -/
def Obligations.GenStartsWithTheTagBytes : Prop :=
  decode (.write 0x04 .four 0x00000002) = .gen ∧
  ∀ s : State,
    (s.blk.st = .idle ∨ s.blk.st = .done → ∃ t, exec .gen s = .next t ∧
      t = { s with blk := { s.blk with
        err := .ok, lastop := .none, count := 0, length := 0, rxcrc := 0,
        crc := crcStep (crcStep (crcStep (crcStep 0xFFFFFFFF
          (s.blk.tag.extractLsb' 24 8)) (s.blk.tag.extractLsb' 16 8)) (s.blk.tag.extractLsb' 8 8))
          (s.blk.tag.extractLsb' 0 8),
        u8 := { pend := 0, lo := 0x80, hi := 0xBF, bad := false }, st := .gen } } ∧
      busRead t.blk 0x18 .four = crc32 (be32 s.blk.tag)) ∧
    (s.blk.st = .gen ∨ s.blk.st = .parse ∨ s.blk.st = .raw →
      exec .gen s = .next { s with blk := { s.blk with perr := true } })

/-- 43_commands.md R175: PARSE starts a session with TAG cleared. -/
def Obligations.ParseStartsWithTheTagCleared : Prop :=
  decode (.write 0x04 .four 0x00000003) = .parse ∧
  ∀ s : State,
    (s.blk.st = .idle ∨ s.blk.st = .done → ∃ t, exec .parse s = .next t ∧
      t = { s with blk := { s.blk with
        err := .ok, lastop := .none, count := 0, length := 0, rxcrc := 0, crc := 0xFFFFFFFF,
        u8 := { pend := 0, lo := 0x80, hi := 0xBF, bad := false }, st := .parse,
        tag := 0x00000000 } } ∧
      busRead t.blk 0x10 .four = 0x0E) ∧
    (s.blk.st = .gen ∨ s.blk.st = .parse ∨ s.blk.st = .raw →
      exec .parse s = .next { s with blk := { s.blk with perr := true } })

/-- 43_commands.md R176: RAW starts a session; TAG is kept and not fed to the CRC. -/
def Obligations.RawStartsAndKeepsTheTag : Prop :=
  decode (.write 0x04 .four 0x00000004) = .raw ∧
  ∀ s : State,
    (s.blk.st = .idle ∨ s.blk.st = .done → exec .raw s
      = .next { s with blk := { s.blk with
        err := .ok, lastop := .none, count := 0, length := 0, rxcrc := 0, crc := 0xFFFFFFFF,
        u8 := { pend := 0, lo := 0x80, hi := 0xBF, bad := false }, st := .raw } }) ∧
    (s.blk.st = .gen ∨ s.blk.st = .parse ∨ s.blk.st = .raw →
      exec .raw s = .next { s with blk := { s.blk with perr := true } })

/-- 43_commands.md R177: FINISH ends the open session, names its mode in LASTOP, writes LENGTH in GEN
only, keeps the stream's other elements and PERR; a second FINISH is refused. -/
def Obligations.FinishEndsTheSessionOnce : Prop :=
  decode (.write 0x04 .four 0x00000005) = .finish ∧
  (∀ s : State, s.blk.st = .gen ∨ s.blk.st = .parse ∨ s.blk.st = .raw →
    ∃ e len, exec .finish s = .next { s with blk := { s.blk with
        st := .done
        lastop := (match s.blk.st with | .gen => .gen | .parse => .parse | _ => .raw)
        err := e
        length := len } } ∧
      (s.blk.st ≠ .gen → len = s.blk.length)) ∧
  (∀ s : State, s.blk.st = .idle ∨ s.blk.st = .done →
    exec .finish s = .next { s with blk := { s.blk with perr := true } }) ∧
  (∀ s t : State, exec .finish s = .next t →
    exec .finish t = .next { t with blk := { t.blk with perr := true } })

/-- 43_commands.md R178: FINISH in GEN. -/
def Obligations.FinishInGenSetsTheLength : Prop :=
  ∀ s : State, s.blk.st = .gen →
    (s.blk.count.toNat ≤ 0xFFFFFFFF → exec .finish s = .next { s with blk := { s.blk with
      length := BitVec.ofNat 32 s.blk.count.toNat, err := .ok, lastop := .gen, st := .done } }) ∧
    (0xFFFFFFFF < s.blk.count.toNat → exec .finish s = .next { s with blk := { s.blk with
      length := BitVec.ofNat 32 (s.blk.count.toNat % 2 ^ 32), err := .lengthOverflow, lastop := .gen,
      st := .done } })

/-- 43_commands.md R179: FINISH in PARSE, the checks in PNGME's order; the first that fails sets ERR. -/
def Obligations.FinishInParseChecksInOrder : Prop :=
  ∀ s : State, s.blk.st = .parse → ∃ e : ErrCode,
    exec .finish s
      = .next { s with blk := { s.blk with err := e, lastop := .parse, st := .done } } ∧
    (s.blk.count.toNat < 12 → e = .truncatedInput) ∧
    (12 ≤ s.blk.count.toNat → tagValid s.blk.tag = false → e = .invalidTag) ∧
    (12 ≤ s.blk.count.toNat → tagValid s.blk.tag = true →
      s.blk.count.toNat ≠ 12 + s.blk.length.toNat → e = .lengthMismatch) ∧
    (12 ≤ s.blk.count.toNat → tagValid s.blk.tag = true →
      s.blk.count.toNat = 12 + s.blk.length.toNat → s.blk.crc ^^^ 0xFFFFFFFF ≠ s.blk.rxcrc →
      e = .checksumMismatch) ∧
    (12 ≤ s.blk.count.toNat → tagValid s.blk.tag = true →
      s.blk.count.toNat = 12 + s.blk.length.toNat → s.blk.crc ^^^ 0xFFFFFFFF = s.blk.rxcrc →
      e = .ok)

/-- 43_commands.md R180: FINISH in RAW cannot fail. -/
def Obligations.FinishInRawAlwaysSucceeds : Prop :=
  ∀ s : State, s.blk.st = .raw → exec .finish s
    = .next { s with blk := { s.blk with err := .ok, lastop := .raw, st := .done } }

/-- 43_commands.md R181: TEXTCHK writes ERR only, from UTF8_OK, and only while a valid chunk is held. -/
def Obligations.TextchkReportsUtf8OfAValidChunk : Prop :=
  decode (.write 0x04 .four 0x00000006) = .textchk ∧
  ∀ s : State,
    (s.blk.st = .done ∧ (s.blk.lastop = .gen ∨ s.blk.lastop = .parse) ∧
        (s.blk.err = .ok ∨ s.blk.err = .notUtf8Text) →
      (s.blk.u8.bad = false ∧ s.blk.u8.pend = 0 →
        exec .textchk s = .next { s with blk := { s.blk with err := .ok } }) ∧
      (¬ (s.blk.u8.bad = false ∧ s.blk.u8.pend = 0) →
        exec .textchk s = .next { s with blk := { s.blk with err := .notUtf8Text } })) ∧
    (¬ (s.blk.st = .done ∧ (s.blk.lastop = .gen ∨ s.blk.lastop = .parse) ∧
        (s.blk.err = .ok ∨ s.blk.err = .notUtf8Text)) →
      exec .textchk s = .next { s with blk := { s.blk with perr := true } })

/-- 40_tag.md R107: only VALID gates anything. Two blocks that differ in TAG alone, with tags of the same
validity, end PARSE with the same ERR. -/
def Obligations.AdvisoryTagFlagsGateNothing : Prop :=
  ∀ (s t u : State) (tag : Word), s.blk.st = .parse → tagValid tag = tagValid s.blk.tag →
    exec .finish s = .next t → exec .finish { s with blk := { s.blk with tag := tag } } = .next u →
    u = { t with blk := { t.blk with tag := tag } }

/-! ### The CRC engine -/

/-- 41_crc.md R121: the table-driven step equals the bitwise one, with the sample entries of the table. -/
def Obligations.TableStepEqualsBitwiseStep : Prop :=
  (∀ (c : Word) (b : Byte),
    crcStep c b = (c >>> 8) ^^^ crcTable ((c ^^^ b.setWidth 32).extractLsb' 0 8)) ∧
  crcTable 0x00 = 0x00000000 ∧ crcTable 0x01 = 0x77073096 ∧ crcTable 0x02 = 0xEE0E612C ∧
  crcTable 0x03 = 0x990951BA ∧ crcTable 0x80 = 0xEDB88320 ∧ crcTable 0xFF = 0x2D02EF8D

/-- 41_crc.md R125: the reference values, the running register while "RuSt" is absorbed, and what CRC reads
meanwhile. -/
def Obligations.ReferenceChecksums : Prop :=
  crc32 [] = 0x00000000 ∧
  crc32 [0x61] = 0xE8B7BE43 ∧
  crc32 [0x31, 0x32, 0x33, 0x34, 0x35, 0x36, 0x37, 0x38, 0x39] = 0xCBF43926 ∧
  crc32 [0x52, 0x75, 0x53, 0x74] = 0xD484093C ∧
  crc32 [0x49, 0x45, 0x4E, 0x44] = 0xAE426082 ∧
  crc32 [0x00] = 0xD202EF8D ∧
  crc32 [0x00, 0x00, 0x00, 0x00] = 0x2144DF1C ∧
  crc32 [0xFF, 0xFF, 0xFF, 0xFF] = 0xFFFFFFFF ∧
  crc32 ([0x52, 0x75, 0x53, 0x74, 0x54, 0x68, 0x69, 0x73, 0x20, 0x69, 0x73, 0x20, 0x77, 0x68, 0x65, 0x72]
    ++ [0x65, 0x20, 0x79, 0x6F, 0x75, 0x72, 0x20, 0x73, 0x65, 0x63, 0x72, 0x65, 0x74, 0x20, 0x6D, 0x65]
    ++ [0x73, 0x73, 0x61, 0x67, 0x65, 0x20, 0x77, 0x69, 0x6C, 0x6C, 0x20, 0x62, 0x65, 0x21])
    = 2882656334 ∧
  crcFold 0xFFFFFFFF [0x52] = 0xA89820AA ∧
  crcFold 0xFFFFFFFF [0x52, 0x75] = 0x16C45765 ∧
  crcFold 0xFFFFFFFF [0x52, 0x75, 0x53] = 0xCFAC51CE ∧
  crcFold 0xFFFFFFFF [0x52, 0x75, 0x53, 0x74] = 0x2B7BF6C3 ∧
  crcFinal 0xA89820AA = 0x5767DF55 ∧ crcFinal 0x16C45765 = 0xE93BA89A ∧
  crcFinal 0xCFAC51CE = 0x3053AE31 ∧ crcFinal 0x2B7BF6C3 = 0xD484093C

/-- 41_crc.md R126: a message followed by its checksum, least significant byte first, has the checksum
0x2144DF1C; with the checksum big-endian the value for "123456789" is another one. -/
def Obligations.LittleEndianResidueIsConstant : Prop :=
  (∀ m : List Byte,
    crc32 (m ++ [(crc32 m).extractLsb' 0 8, (crc32 m).extractLsb' 8 8, (crc32 m).extractLsb' 16 8,
      (crc32 m).extractLsb' 24 8]) = 0x2144DF1C) ∧
  crc32 ([0x31, 0x32, 0x33, 0x34, 0x35, 0x36, 0x37, 0x38, 0x39]
    ++ be32 (crc32 [0x31, 0x32, 0x33, 0x34, 0x35, 0x36, 0x37, 0x38, 0x39])) = 0x3CC9742C

/-! ### Text -/

/-- 42_stream.md R151: UTF8_OK after feeding a sequence is 1 exactly when the sequence is a concatenation
of rows of the table. -/
def Obligations.ValidatorAcceptsExactlyWellFormedUtf8 : Prop :=
  ∀ bs : List Byte, (u8Fold Utf8.init bs).ok = true ↔ WellFormedUtf8 bs

/-- 43_commands.md R181 and 42_stream.md R151: after a GEN session whose payload fits, TEXTCHK leaves
ERR = OK exactly when the payload is well-formed UTF-8, and NotUtf8Text otherwise. -/
def Obligations.TextchkAfterGenDecidesUtf8 : Prop :=
  ∀ (s : State) (ps : List PushOp) (rest : List Event),
    s.ready → s.pending = session 0x2 ps ++ busWord 0x04 0x6 :: rest →
    (pushedBytes ps).length < 2 ^ 32 →
    ∃ t, runSteps (ps.length + 3) s = .next t ∧ t.pending = rest ∧
      t.blk.st = .done ∧ t.blk.lastop = .gen ∧
      (WellFormedUtf8 (pushedBytes ps) → t.blk.err = .ok) ∧
      (¬ WellFormedUtf8 (pushedBytes ps) → t.blk.err = .notUtf8Text)

/-! ### Sessions -/

/-- 43_commands.md R176, R180 and 41_crc.md R123: a RAW session over any pushes computes the CRC-32 of the
pushed bytes. -/
def Obligations.RawSessionComputesCrc32 : Prop :=
  ∀ (s : State) (ps : List PushOp) (rest : List Event),
    s.ready → s.pending = session 0x4 ps ++ rest →
    ∃ t, runSteps (ps.length + 2) s = .next t ∧ t.pending = rest ∧
      t.reads = s.reads ∧ t.blk.st = .done ∧ t.blk.lastop = .raw ∧ t.blk.err = .ok ∧
      t.blk.perr = s.blk.perr ∧ t.blk.tag = s.blk.tag ∧ t.blk.length = 0 ∧ t.blk.rxcrc = 0 ∧
      t.blk.count.toNat = (pushedBytes ps).length % 2 ^ 64 ∧
      busRead t.blk 0x18 .four = crc32 (pushedBytes ps) ∧
      t.blk.u8 = u8Fold Utf8.init (pushedBytes ps)

/-- 43_commands.md R174, R178 and 41_crc.md R124: a GEN session computes the chunk of the tag and the
pushed payload. -/
def Obligations.GenSessionComputesTheChunk : Prop :=
  ∀ (s : State) (ps : List PushOp) (rest : List Event),
    s.ready → s.pending = session 0x2 ps ++ rest → (pushedBytes ps).length < 2 ^ 64 →
    ∃ t, runSteps (ps.length + 2) s = .next t ∧ t.pending = rest ∧
      t.reads = s.reads ∧ t.blk.st = .done ∧ t.blk.lastop = .gen ∧ t.blk.perr = s.blk.perr ∧
      t.blk.tag = s.blk.tag ∧ t.blk.rxcrc = 0 ∧
      t.blk.count.toNat = (pushedBytes ps).length ∧
      t.blk.length.toNat = (pushedBytes ps).length % 2 ^ 32 ∧
      ((pushedBytes ps).length < 2 ^ 32 → t.blk.err = .ok) ∧
      (2 ^ 32 ≤ (pushedBytes ps).length → t.blk.err = .lengthOverflow) ∧
      busRead t.blk 0x18 .four = crc32 (be32 s.blk.tag ++ pushedBytes ps) ∧
      t.blk.u8 = u8Fold Utf8.init (pushedBytes ps)

/-- 42_stream.md R142 to R149 and 41_crc.md R123: at every moment of a PARSE session the registers are
those of the buffer pushed so far, each field in its place, whatever the pushes' widths. -/
def Obligations.ParseSessionCapturesTheFrame : Prop :=
  ∀ (s : State) (ps : List PushOp) (rest : List Event),
    s.ready → s.pending = busWord 0x04 0x3 :: ps.map PushOp.event ++ rest →
    (pushedBytes ps).length < 2 ^ 64 →
    ∃ t, runSteps (ps.length + 1) s = .next t ∧ t.pending = rest ∧
      t.reads = s.reads ∧ t.blk.st = .parse ∧ t.blk.err = .ok ∧ t.blk.lastop = .none ∧
      t.blk.perr = s.blk.perr ∧
      t.blk.count.toNat = (pushedBytes ps).length ∧
      t.blk.length.toNat = bufferLength (pushedBytes ps) ∧
      t.blk.tag.toNat = bigEndian (bufferTag (pushedBytes ps)) ∧
      t.blk.rxcrc.toNat = bigEndian (bufferChecksum (pushedBytes ps)) ∧
      busRead t.blk 0x18 .four
        = crc32 (bufferTag (pushedBytes ps) ++ bufferPayload (pushedBytes ps)) ∧
      t.blk.u8 = u8Fold Utf8.init (bufferPayload (pushedBytes ps))

/-- 43_commands.md R179: a PARSE session over any buffer, streamed in pushes of any width, ends with the
result of PNGME's `decode(bytes)` on the whole buffer; on success the registers hold the chunk. -/
def Obligations.ParseSessionIsDecodeOfTheBuffer : Prop :=
  ∀ (s : State) (ps : List PushOp) (rest : List Event),
    s.ready → s.pending = session 0x3 ps ++ rest → (pushedBytes ps).length < 2 ^ 64 →
    ∃ t, runSteps (ps.length + 2) s = .next t ∧ t.pending = rest ∧
      t.reads = s.reads ∧ t.blk.st = .done ∧ t.blk.lastop = .parse ∧ t.blk.perr = s.blk.perr ∧
      t.blk.err = decodeBuffer (pushedBytes ps) ∧
      (decodeBuffer (pushedBytes ps) = .ok →
        pushedBytes ps = frame t.blk.length t.blk.tag (bufferPayload (pushedBytes ps))
          (busRead t.blk 0x18 .four) ∧
        t.blk.length.toNat = (bufferPayload (pushedBytes ps)).length ∧
        t.blk.rxcrc = busRead t.blk 0x18 .four ∧
        t.blk.rxcrc = crc32 (be32 t.blk.tag ++ bufferPayload (pushedBytes ps)))

/-- 43_commands.md R185, the round trip: the frame the host emits for a generated chunk, pushed into a
PARSE session in any way, gives the same chunk when the tag is valid and InvalidTag otherwise. -/
def Obligations.EncodeThenDecodeGivesTheChunkBack : Prop :=
  ∀ (s : State) (tag : Word) (ps : List PushOp),
    s.ready → s.pending = busWord 0x0C tag :: session 0x2 ps → (pushedBytes ps).length < 2 ^ 32 →
    ∃ t, runSteps (ps.length + 3) s = .next t ∧ t.blk.st = .done ∧
      t.blk.err = .ok ∧ t.blk.tag = tag ∧
      ∀ qs : List PushOp, pushedBytes qs = encodeChunk t.blk (pushedBytes ps) →
        ∃ u, runSteps (qs.length + 2) { t with pending := session 0x3 qs } = .next u ∧
          u.blk.st = .done ∧ u.blk.lastop = .parse ∧
          (tagValid tag = false → u.blk.err = .invalidTag) ∧
          (tagValid tag = true → u.blk.err = .ok ∧ u.blk.length = t.blk.length ∧ u.blk.tag = tag ∧
            busRead u.blk 0x18 .four = busRead t.blk 0x18 .four ∧
            u.blk.rxcrc = busRead u.blk 0x18 .four ∧ u.blk.u8 = t.blk.u8)

/-! ### The host's helpers -/

/-- 30_encoding.md R90: `pushstr` hands the block exactly the text's bytes, in order, in one access for
each full group of four and one for each byte left over. -/
def Obligations.PushstrPushesTheText : Prop :=
  ∀ text : List Byte, ∃ ps : List PushOp,
    assemble [.pushstr text] = ps.map PushOp.event ∧ pushedBytes ps = text ∧
    ps.length = text.length / 4 + text.length % 4

/-- 20_memory.md R66: a word loaded little-endian and byte-swapped pushes the four bytes in their order in
memory; unswapped it pushes them reversed. -/
def Obligations.LittleEndianHostSwapsBytes : Prop :=
  (∀ b0 b1 b2 b3 : Byte,
    (PushOp.data32 (byteSwap (littleEndianLoad b0 b1 b2 b3))).bytes = [b0, b1, b2, b3] ∧
    (PushOp.data32 (littleEndianLoad b0 b1 b2 b3)).bytes = [b3, b2, b1, b0]) ∧
  littleEndianLoad 0x52 0x75 0x53 0x74 = 0x74537552 ∧ byteSwap 0x74537552 = 0x52755374

/-! ### The invariant -/

/-- The reset state meets the invariant. -/
def Obligations.ResetMeetsTheInvariant : Prop := State.reset.Inv

/-- Every step keeps the invariant, from every state that meets it: the validator's canonical form
(10_state.md R40), LASTOP and ERR as STATE allows (R28, R29), LENGTH and RXCRC as the mode leaves them
(42_stream.md R154), ERR in DONE as FINISH and TEXTCHK write it (43_commands.md R178 to R181). -/
def Obligations.EveryStepKeepsTheInvariant : Prop :=
  ∀ s t : State, s.Inv → step s = .next t → t.Inv

/-- 60_exceptions.md R205, of every state that meets the invariant: while a valid chunk is held LENGTH is
the payload's byte count, and after PARSE the tag is valid and RXCRC = CRC. -/
def Obligations.ValidChunkRegistersAgree : Prop :=
  ∀ s : State, s.Inv → s.blk.validChunk = true →
    (s.blk.lastop = .gen → s.blk.count.toNat = s.blk.length.toNat) ∧
    (s.blk.lastop = .parse → s.blk.count.toNat = 12 + s.blk.length.toNat ∧
      tagValid s.blk.tag = true ∧ busRead s.blk 0x18 .four = busRead s.blk 0x1C .four)
end

