-- ==== Sys2Proof/Laws/Codec.lean ====
section
/-! SUPPORT. The parts of a word put together and taken apart again. -/

namespace Sys2Proof

/-- The parts of two joined bit strings. -/
theorem extract_low {m n : Nat} (x : BitVec m) (y : BitVec n) : (x ++ y).extractLsb' 0 n = y := by
  ext i hi
  simp [BitVec.getLsbD_append, hi]

theorem extract_high {m n : Nat} (x : BitVec m) (y : BitVec n) : (x ++ y).extractLsb' n m = x := by
  ext i hi
  simp [BitVec.getLsbD_append, BitVec.getLsbD_eq_getElem hi]

/-- A joined bit string as a number. -/
theorem toNat_append_eq {m n : Nat} (x : BitVec m) (y : BitVec n) :
    (x ++ y).toNat = x.toNat * 2 ^ n + y.toNat := by
  rw [BitVec.toNat_append, ← Nat.shiftLeft_add_eq_or_of_lt y.isLt, Nat.shiftLeft_eq]

/-- The word of four bytes as a number: the first byte counts most (20_memory.md R62). -/
theorem wordOfBytes_toNat (b0 b1 b2 b3 : Byte) : (wordOfBytes b0 b1 b2 b3).toNat
    = b0.toNat * 2 ^ 24 + b1.toNat * 2 ^ 16 + b2.toNat * 2 ^ 8 + b3.toNat := by
  simp only [wordOfBytes, toNat_append_eq]
  omega

/-- A byte of a word as a number. -/
theorem wordByte_toNat (w : Word) (n : Nat) :
    (wordByte w n).toNat = w.toNat / 2 ^ (24 - 8 * n) % 256 := by
  simp [wordByte, BitVec.extractLsb'_toNat, Nat.shiftRight_eq_div_pow]

theorem wordByte_wordOfBytes (b0 b1 b2 b3 : Byte) :
    wordByte (wordOfBytes b0 b1 b2 b3) 0 = b0 ∧ wordByte (wordOfBytes b0 b1 b2 b3) 1 = b1 ∧
      wordByte (wordOfBytes b0 b1 b2 b3) 2 = b2 ∧ wordByte (wordOfBytes b0 b1 b2 b3) 3 = b3 := by
  have := b0.isLt
  have := b1.isLt
  have := b2.isLt
  have := b3.isLt
  refine ⟨?_, ?_, ?_, ?_⟩ <;>
  · apply BitVec.eq_of_toNat_eq
    simp only [wordByte_toNat, wordOfBytes_toNat]
    omega

theorem wordOfBytes_wordByte (w : Word) :
    wordOfBytes (wordByte w 0) (wordByte w 1) (wordByte w 2) (wordByte w 3) = w := by
  have := w.isLt
  apply BitVec.eq_of_toNat_eq
  simp only [wordByte_toNat, wordOfBytes_toNat]
  omega

theorem be32_wordOfBytes (b0 b1 b2 b3 : Byte) : be32 (wordOfBytes b0 b1 b2 b3) = [b0, b1, b2, b3] := by
  obtain ⟨h0, h1, h2, h3⟩ := wordByte_wordOfBytes b0 b1 b2 b3
  simp [be32, h0, h1, h2, h3]

/-- Decoding a write to each of the four writable slots. -/
theorem decode_cmd (data : Word) : decode (.write 0x04 .four data) = decodeCmd data := rfl
theorem decode_tagw (data : Word) : decode (.write 0x0C .four data)
    = .tagw (wordByte data 0) (wordByte data 1) (wordByte data 2) (wordByte data 3) := rfl
theorem decode_push8 (data : Word) : decode (.write 0x20 .four data)
    = .push8 (data.extractLsb' 8 24) (data.extractLsb' 0 8) := rfl
theorem decode_push32 (data : Word) : decode (.write 0x24 .four data)
    = .push32 (wordByte data 0) (wordByte data 1) (wordByte data 2) (wordByte data 3) := rfl

theorem decode_not_word {off : Offset} {size : AccessSize} (data : Word)
    (h : isWordAccess off size = false) :
    decode (.write off size data) = .wrNarrowOrMisaligned off size data := by simp [decode, h]

theorem decode_refused_slot {off : Offset} (data : Word)
    (h : off ∈ readOnlySlots ∨ off ∈ reservedSlots) :
    decode (.write off .four data) = .wrRefused off data := by
  simp only [readOnlySlots, reservedSlots, List.mem_cons, List.not_mem_nil, or_false] at h
  rcases h with (h | h | h | h | h | h | h | h) | (h | h | h | h) <;> subst h <;> rfl

end Sys2Proof
end

