-- ==== Sys2Proof/Laws/State.lean ====
section
/-! SUPPORT. What each update of the state leaves in each field, so that no proof unfolds an update. -/

namespace Sys2Proof.Machine

@[simp] theorem State.onBlock_blk (s : State) (f : Block → Block) : (s.onBlock f).blk = f s.blk := rfl
@[simp] theorem State.onBlock_pending (s : State) (f : Block → Block) :
    (s.onBlock f).pending = s.pending := rfl
@[simp] theorem State.onBlock_reads (s : State) (f : Block → Block) : (s.onBlock f).reads = s.reads := rfl
@[simp] theorem State.onBlock_resetHeld (s : State) (f : Block → Block) :
    (s.onBlock f).resetHeld = s.resetHeld := rfl
@[simp] theorem State.onBlock_draws (s : State) (f : Block → Block) : (s.onBlock f).draws = s.draws := rfl

@[simp] theorem State.returning_blk (s : State) (v : Word) : (s.returning v).blk = s.blk := rfl
@[simp] theorem State.returning_pending (s : State) (v : Word) :
    (s.returning v).pending = s.pending := rfl
@[simp] theorem State.returning_reads (s : State) (v : Word) :
    (s.returning v).reads = s.reads ++ [v] := rfl
@[simp] theorem State.returning_resetHeld (s : State) (v : Word) :
    (s.returning v).resetHeld = s.resetHeld := rfl
@[simp] theorem State.returning_draws (s : State) (v : Word) : (s.returning v).draws = s.draws := rfl

@[simp] theorem State.resetBlock_blk (s : State) : s.resetBlock.blk = Block.reset := rfl
@[simp] theorem State.resetBlock_pending (s : State) : s.resetBlock.pending = s.pending := rfl
@[simp] theorem State.resetBlock_reads (s : State) : s.resetBlock.reads = s.reads := rfl
@[simp] theorem State.resetBlock_resetHeld (s : State) : s.resetBlock.resetHeld = s.resetHeld := rfl
@[simp] theorem State.resetBlock_draws (s : State) : s.resetBlock.draws = s.draws := rfl

@[simp] theorem Block.withPerr_st (b : Block) : b.withPerr.st = b.st := rfl
@[simp] theorem Block.withPerr_err (b : Block) : b.withPerr.err = b.err := rfl
@[simp] theorem Block.withPerr_lastop (b : Block) : b.withPerr.lastop = b.lastop := rfl
@[simp] theorem Block.withPerr_perr (b : Block) : b.withPerr.perr = true := rfl
@[simp] theorem Block.withPerr_tag (b : Block) : b.withPerr.tag = b.tag := rfl
@[simp] theorem Block.withPerr_length (b : Block) : b.withPerr.length = b.length := rfl
@[simp] theorem Block.withPerr_rxcrc (b : Block) : b.withPerr.rxcrc = b.rxcrc := rfl
@[simp] theorem Block.withPerr_count (b : Block) : b.withPerr.count = b.count := rfl
@[simp] theorem Block.withPerr_crc (b : Block) : b.withPerr.crc = b.crc := rfl
@[simp] theorem Block.withPerr_u8 (b : Block) : b.withPerr.u8 = b.u8 := rfl

@[simp] theorem Block.toIdle_st (b : Block) : b.toIdle.st = .idle := rfl
@[simp] theorem Block.toIdle_err (b : Block) : b.toIdle.err = .ok := rfl
@[simp] theorem Block.toIdle_lastop (b : Block) : b.toIdle.lastop = .none := rfl
@[simp] theorem Block.toIdle_perr (b : Block) : b.toIdle.perr = b.perr := rfl
@[simp] theorem Block.toIdle_tag (b : Block) : b.toIdle.tag = b.tag := rfl
@[simp] theorem Block.toIdle_length (b : Block) : b.toIdle.length = b.length := rfl
@[simp] theorem Block.toIdle_rxcrc (b : Block) : b.toIdle.rxcrc = b.rxcrc := rfl
@[simp] theorem Block.toIdle_count (b : Block) : b.toIdle.count = b.count := rfl
@[simp] theorem Block.toIdle_crc (b : Block) : b.toIdle.crc = b.crc := rfl
@[simp] theorem Block.toIdle_u8 (b : Block) : b.toIdle.u8 = b.u8 := rfl

@[simp] theorem startSession_st (m : Mode) (b : Block) : (startSession m b).st = m.phase := rfl
@[simp] theorem startSession_err (m : Mode) (b : Block) : (startSession m b).err = .ok := rfl
@[simp] theorem startSession_lastop (m : Mode) (b : Block) : (startSession m b).lastop = .none := rfl
@[simp] theorem startSession_perr (m : Mode) (b : Block) : (startSession m b).perr = b.perr := rfl
@[simp] theorem startSession_tag (m : Mode) (b : Block) : (startSession m b).tag = b.tag := rfl
@[simp] theorem startSession_length (m : Mode) (b : Block) : (startSession m b).length = 0 := rfl
@[simp] theorem startSession_rxcrc (m : Mode) (b : Block) : (startSession m b).rxcrc = 0 := rfl
@[simp] theorem startSession_count (m : Mode) (b : Block) : (startSession m b).count = 0 := rfl
@[simp] theorem startSession_crc (m : Mode) (b : Block) : (startSession m b).crc = crcInit := rfl
@[simp] theorem startSession_u8 (m : Mode) (b : Block) : (startSession m b).u8 = Utf8.init := rfl

@[simp] theorem endSession_st (m : Mode) (b : Block) : (endSession m b).st = .done := rfl
@[simp] theorem endSession_err (m : Mode) (b : Block) : (endSession m b).err = b.err := rfl
@[simp] theorem endSession_lastop (m : Mode) (b : Block) : (endSession m b).lastop = m.lastOp := rfl
@[simp] theorem endSession_perr (m : Mode) (b : Block) : (endSession m b).perr = b.perr := rfl
@[simp] theorem endSession_tag (m : Mode) (b : Block) : (endSession m b).tag = b.tag := rfl
@[simp] theorem endSession_length (m : Mode) (b : Block) : (endSession m b).length = b.length := rfl
@[simp] theorem endSession_rxcrc (m : Mode) (b : Block) : (endSession m b).rxcrc = b.rxcrc := rfl
@[simp] theorem endSession_count (m : Mode) (b : Block) : (endSession m b).count = b.count := rfl
@[simp] theorem endSession_crc (m : Mode) (b : Block) : (endSession m b).crc = b.crc := rfl
@[simp] theorem endSession_u8 (m : Mode) (b : Block) : (endSession m b).u8 = b.u8 := rfl

end Sys2Proof.Machine
end

