-- ==== Sys2Proof/Laws/Ops.lean ====
section
/-! SUPPORT. One lemma for each shared operation, saying what it can do. -/

namespace Sys2Proof.Machine

/-! ### Refusal and legality -/

theorem raisePerr_eq (s : State) : raisePerr s = .next (s.onBlock Block.withPerr) := rfl

/-- The two things an operation with a legality condition can do. -/
theorem runIf_cases (legal : Bool) (f : Block → Block) (s : State) :
    (legal = true ∧ runIf legal f s = .next (s.onBlock f)) ∨
      (legal = false ∧ runIf legal f s = .next (s.onBlock Block.withPerr)) := by
  cases legal
  · exact .inr ⟨rfl, rfl⟩
  · exact .inl ⟨rfl, rfl⟩

@[simp] theorem runIf_true (f : Block → Block) (s : State) :
    runIf true f s = .next (s.onBlock f) := rfl
@[simp] theorem runIf_false (f : Block → Block) (s : State) :
    runIf false f s = .next (s.onBlock Block.withPerr) := rfl

theorem Phase.inSession_eq_true (p : Phase) :
    p.inSession = true ↔ p = .gen ∨ p = .parse ∨ p = .raw := by cases p <;> decide
theorem Phase.inSession_eq_false (p : Phase) : p.inSession = false ↔ p = .idle ∨ p = .done := by
  cases p <;> decide

theorem Block.validChunk_iff (b : Block) : b.validChunk = true ↔
    b.st = .done ∧ (b.lastop = .gen ∨ b.lastop = .parse) ∧ (b.err = .ok ∨ b.err = .notUtf8Text) := by
  simp [Block.validChunk, and_assoc]

/-! ### One byte -/

/-- A byte writes none of STATE, ERR, LASTOP and PERR, and counts itself. -/
theorem pushByte_keeps (x : Byte) (b : Block) :
    (pushByte x b).st = b.st ∧ (pushByte x b).err = b.err ∧ (pushByte x b).lastop = b.lastop ∧
      (pushByte x b).perr = b.perr ∧ (pushByte x b).count = b.count + 1 := by
  unfold pushByte pushContribution pushInField
  split <;> simp
  split <;> simp

@[simp] theorem pushByte_st (x : Byte) (b : Block) : (pushByte x b).st = b.st := (pushByte_keeps x b).1
@[simp] theorem pushByte_err (x : Byte) (b : Block) : (pushByte x b).err = b.err :=
  (pushByte_keeps x b).2.1
@[simp] theorem pushByte_lastop (x : Byte) (b : Block) : (pushByte x b).lastop = b.lastop :=
  (pushByte_keeps x b).2.2.1
@[simp] theorem pushByte_perr (x : Byte) (b : Block) : (pushByte x b).perr = b.perr :=
  (pushByte_keeps x b).2.2.2.1
@[simp] theorem pushByte_count (x : Byte) (b : Block) : (pushByte x b).count = b.count + 1 :=
  (pushByte_keeps x b).2.2.2.2

theorem pushByte_of_gen_or_raw (x : Byte) (b : Block) (h : b.st = .gen ∨ b.st = .raw) :
    pushByte x b = { b with crc := crcStep b.crc x, u8 := u8Step b.u8 x, count := b.count + 1 } := by
  rcases h with h | h <;> simp [pushByte, pushContribution, h]

theorem pushByte_of_parse (x : Byte) (b : Block) (h : b.st = .parse) :
    pushByte x b
      = { pushInField (fieldAt b.count.toNat b.length.toNat) x b with count := b.count + 1 } := by
  simp [pushByte, pushContribution, h]

@[simp] theorem pushBytes_nil (b : Block) : pushBytes [] b = b := rfl
@[simp] theorem pushBytes_cons (x : Byte) (xs : List Byte) (b : Block) :
    pushBytes (x :: xs) b = pushBytes xs (pushByte x b) := rfl
theorem pushBytes_append (xs ys : List Byte) (b : Block) :
    pushBytes (xs ++ ys) b = pushBytes ys (pushBytes xs b) := by
  simp [pushBytes, List.foldl_append]

/-- A sequence of bytes writes none of STATE, ERR, LASTOP and PERR. -/
theorem pushBytes_keeps (xs : List Byte) (b : Block) :
    (pushBytes xs b).st = b.st ∧ (pushBytes xs b).err = b.err ∧ (pushBytes xs b).lastop = b.lastop ∧
      (pushBytes xs b).perr = b.perr := by
  induction xs generalizing b with
  | nil => simp
  | cons x xs ih => simpa using ih (pushByte x b)

/-! ### The field of a frame offset -/

theorem fieldAt_length {i len : Nat} (h : i < 4) : fieldAt i len = .length := by simp [fieldAt, h]
theorem fieldAt_tag {i len : Nat} (h : 4 ≤ i) (h' : i < 8) : fieldAt i len = .tag := by
  have : ¬ i < 4 := by omega
  simp [fieldAt, *]
theorem fieldAt_payload {i len : Nat} (h : 8 ≤ i) (h' : i < 8 + len) : fieldAt i len = .payload := by
  have h4 : ¬ i < 4 := by omega
  have h8 : ¬ i < 8 := by omega
  simp [fieldAt, *]
theorem fieldAt_checksum {i len : Nat} (h : 8 + len ≤ i) (h' : i < 12 + len) :
    fieldAt i len = .checksum := by
  have h4 : ¬ i < 4 := by omega
  have h8 : ¬ i < 8 := by omega
  have hp : ¬ i < 8 + len := by omega
  simp [fieldAt, *]
theorem fieldAt_excess {i len : Nat} (h : 12 + len ≤ i) : fieldAt i len = .excess := by
  have h4 : ¬ i < 4 := by omega
  have h8 : ¬ i < 8 := by omega
  have hp : ¬ i < 8 + len := by omega
  have hc : ¬ i < 12 + len := by omega
  simp [fieldAt, *]

/-- Shifting a byte in is multiplying by 256 and adding it, modulo 2^32. -/
theorem shiftIn_eq (r : Word) (b : Byte) : shiftIn r b = BitVec.ofNat 32 (r.toNat * 256 + b.toNat) := by
  have hb := b.isLt
  have hor : shiftIn r b = r <<< 8 + b.setWidth 32 := by
    unfold shiftIn
    rw [BitVec.add_eq_or_of_and_eq_zero]
    ext i hi
    simp only [BitVec.getElem_and, BitVec.getElem_shiftLeft, BitVec.getElem_setWidth,
      BitVec.getElem_zero]
    by_cases h8 : i < 8
    · simp [h8]
    · have : b.getLsbD i = false := BitVec.getLsbD_of_ge _ _ (by omega)
      simp [h8, this]
  apply BitVec.eq_of_toNat_eq
  rw [hor]
  simp only [BitVec.toNat_add, BitVec.toNat_shiftLeft, BitVec.toNat_setWidth, BitVec.toNat_ofNat,
    Nat.shiftLeft_eq]
  omega

/-! ### Text and checksum of sequences -/

@[simp] theorem crcFold_nil (c : Word) : crcFold c [] = c := rfl
@[simp] theorem crcFold_cons (c : Word) (x : Byte) (xs : List Byte) :
    crcFold c (x :: xs) = crcFold (crcStep c x) xs := rfl
theorem crcFold_append (c : Word) (xs ys : List Byte) :
    crcFold c (xs ++ ys) = crcFold (crcFold c xs) ys := by simp [crcFold, List.foldl_append]

/-- The final XOR undoes itself. -/
@[simp] theorem crcFinal_crcFinal (c : Word) : crcFinal (crcFinal c) = c := by
  simp [crcFinal]
theorem crcFinal_inj {c d : Word} : crcFinal c = crcFinal d ↔ c = d :=
  ⟨fun h => by simpa using congrArg crcFinal h, fun h => h ▸ rfl⟩

@[simp] theorem u8Fold_nil (u : Utf8) : u8Fold u [] = u := rfl
@[simp] theorem u8Fold_cons (u : Utf8) (x : Byte) (xs : List Byte) :
    u8Fold u (x :: xs) = u8Fold (u8Step u x) xs := rfl
theorem u8Fold_append (u : Utf8) (xs ys : List Byte) :
    u8Fold u (xs ++ ys) = u8Fold (u8Fold u xs) ys := by simp [u8Fold, List.foldl_append]

theorem u8Step_of_bad (u : Utf8) (x : Byte) (h : u.bad = true) : u8Step u x = u8Bad := by
  simp [u8Step, h]

@[simp] theorem u8Fold_bad (xs : List Byte) : u8Fold u8Bad xs = u8Bad := by
  induction xs with
  | nil => rfl
  | cons x xs ih => rw [u8Fold_cons, u8Step_of_bad _ _ rfl, ih]

theorem Utf8.ok_iff (u : Utf8) : u.ok = true ↔ u.bad = false ∧ u.pend = 0 := by
  simp [Utf8.ok]

/-! ### The window -/

theorem busRead_of_word {off : Offset} {size : AccessSize} (b : Block)
    (h : isWordAccess off size = true) : busRead b off size = readRegister b off := by
  simp [busRead, h]
theorem busRead_of_not_word {off : Offset} {size : AccessSize} (b : Block)
    (h : isWordAccess off size = false) : busRead b off size = 0x00000000 := by
  simp [busRead, h]
theorem isWordAccess_iff (off : Offset) (size : AccessSize) :
    isWordAccess off size = true ↔ size = .four ∧ off.toNat % 4 = 0 := by
  simp [isWordAccess]

/-! ### Numbers of byte sequences -/

@[simp] theorem bigEndian_nil : bigEndian [] = 0 := rfl
theorem bigEndian_concat (bs : List Byte) (b : Byte) :
    bigEndian (bs ++ [b]) = bigEndian bs * 256 + b.toNat := by
  simp [bigEndian, List.foldl_append]

end Sys2Proof.Machine
end

