-- ==== Sys2Proof/Laws/PerInstr.lean ====
section
/-! SUPPORT. The family of statements made of each operation: decoding its encoding gives it back. -/

namespace Sys2Proof.Laws.CodecAgrees

/-- Decoding the access that encodes a well-formed operation gives the operation back. -/
def Statement (i : Instr) : Prop := i.wf = true → decode (encode i) = i

theorem nop : Statement .nop := fun _ => rfl
theorem abort : Statement .abort := fun _ => rfl
theorem gen : Statement .gen := fun _ => rfl
theorem parse : Statement .parse := fun _ => rfl
theorem raw : Statement .raw := fun _ => rfl
theorem finish : Statement .finish := fun _ => rfl
theorem textchk : Statement .textchk := fun _ => rfl
theorem reservedCmd7 : Statement .reservedCmd7 := fun _ => rfl
theorem reservedCmd8F (low : BitVec 3) : Statement (.reservedCmd8F low) := by
  intro _
  revert low
  decide
theorem reservedCmdMbz (mbz : BitVec 28) (op : BitVec 4) : Statement (.reservedCmdMbz mbz op) := by
  intro h
  have hm : mbz ≠ 0 := by simpa [Instr.wf] using h
  have e1 : (mbz ++ op).extractLsb' 4 28 = mbz := extract_high mbz op
  have e2 : (mbz ++ op).extractLsb' 0 4 = op := extract_low mbz op
  show decode (.write 0x04 .four (mbz ++ op)) = _
  rw [decode_cmd, decodeCmd, e1, e2, if_pos hm]
theorem tagw (b0 b1 b2 b3 : Byte) : Statement (.tagw b0 b1 b2 b3) := by
  intro _
  obtain ⟨h0, h1, h2, h3⟩ := wordByte_wordOfBytes b0 b1 b2 b3
  show decode (.write 0x0C .four (wordOfBytes b0 b1 b2 b3)) = _
  rw [decode_tagw, h0, h1, h2, h3]
theorem push8 (ign : BitVec 24) (b : Byte) : Statement (.push8 ign b) := by
  intro _
  have e1 : (ign ++ b).extractLsb' 8 24 = ign := extract_high ign b
  have e2 : (ign ++ b).extractLsb' 0 8 = b := extract_low ign b
  show decode (.write 0x20 .four (ign ++ b)) = _
  rw [decode_push8, e1, e2]
theorem push32 (b0 b1 b2 b3 : Byte) : Statement (.push32 b0 b1 b2 b3) := by
  intro _
  obtain ⟨h0, h1, h2, h3⟩ := wordByte_wordOfBytes b0 b1 b2 b3
  show decode (.write 0x24 .four (wordOfBytes b0 b1 b2 b3)) = _
  rw [decode_push32, h0, h1, h2, h3]
theorem wrRefused (off : Offset) (data : Word) : Statement (.wrRefused off data) := by
  intro h
  exact decode_refused_slot data (by simpa [Instr.wf] using h)
theorem wrNarrowOrMisaligned (off : Offset) (size : AccessSize) (data : Word) :
    Statement (.wrNarrowOrMisaligned off size data) := by
  intro h
  exact decode_not_word data (by simpa [Instr.wf] using h)
theorem rd (off : Offset) (size : AccessSize) : Statement (.rd off size) := fun _ => rfl

end Sys2Proof.Laws.CodecAgrees
end

