-- ==== Sys2Proof/Laws/Step.lean ====
section
/-! SUPPORT. What the meanings, an event and a step can do. -/

namespace Sys2Proof.Machine

/-- The three things an operation can do: run on the block alone, be refused, or return a value. -/
theorem exec_cases (i : Instr) (s : State) :
    (∃ f : Block → Block, exec i s = .next (s.onBlock f)) ∨ (∃ v, exec i s = .next (s.returning v)) := by
  cases i
  case nop => exact .inl ⟨id, rfl⟩
  case abort => exact .inl ⟨_, rfl⟩
  case rd off size => exact .inr ⟨_, rfl⟩
  case reservedCmd7 => exact .inl ⟨_, rfl⟩
  case reservedCmd8F => exact .inl ⟨_, rfl⟩
  case reservedCmdMbz => exact .inl ⟨_, rfl⟩
  case wrRefused => exact .inl ⟨_, rfl⟩
  case wrNarrowOrMisaligned => exact .inl ⟨_, rfl⟩
  all_goals
    refine .inl ?_
    show ∃ f : Block → Block, runIf _ _ s = _
    rcases runIf_cases _ _ s with ⟨_, h⟩ | ⟨_, h⟩ <;> exact ⟨_, h⟩

/-- No operation touches the port, the reset input or the draws. -/
theorem exec_keeps_ports {i : Instr} {s t : State} (h : exec i s = .next t) :
    t.pending = s.pending ∧ t.resetHeld = s.resetHeld ∧ t.draws = s.draws := by
  rcases exec_cases i s with ⟨f, hf⟩ | ⟨v, hv⟩
  · rw [hf] at h; cases h; simp
  · rw [hv] at h; cases h; simp

/-- A step with an event waiting is that event handled. -/
theorem step_of_event {s : State} {e : Event} {rest : List Event} (h : s.pending = e :: rest) :
    step s = deliver e { s with pending := rest } := by
  simp [step, deliverNext, h]

/-! ### Runs -/

@[simp] theorem runSteps_zero (s : State) : runSteps 0 s = .next s := rfl

/-- A first step that answers a next state is taken off a run. -/
theorem runSteps_succ {s t : State} (k : Nat) (h : step s = .next t) :
    runSteps (k + 1) s = runSteps k t := by
  simp [runSteps, h]

/-- A run cut in two. -/
theorem runSteps_add {s t : State} (j k : Nat) (h : runSteps j s = .next t) :
    runSteps (j + k) s = runSteps k t := by
  induction j generalizing s with
  | zero => cases h; simp
  | succ j ih =>
    cases hs : step s with
    | next u =>
      rw [runSteps_succ j hs] at h
      rw [Nat.succ_add, Nat.succ_eq_add_one, runSteps_succ (j + k) hs]
      exact ih h
    | fault r => simp [runSteps, hs] at h
    | refused r => simp [runSteps, hs] at h

/-- A run of the model is a run of the machine behind the host's interface. -/
theorem runSteps_eq_run (k : Nat) (s : State) : runSteps k s = Host.Core.run Sys2Proof.core k s := by
  induction k generalizing s with
  | zero => rfl
  | succ k ih =>
    have e : Host.Core.run Sys2Proof.core (k + 1) s = _ := Host.Core.run.eq_2 ..
    rw [runSteps]
    refine Eq.trans ?_ e.symm
    cases hs : step s with
    | next t =>
      have hs' : Sys2Proof.core.step s = .next t := hs
      rw [hs']
      exact ih t
    | fault r => exact nomatch r
    | refused r =>
      have hs' : Sys2Proof.core.step s = .refused r := hs
      rw [hs']
      rfl

end Sys2Proof.Machine
end

