-- ==== Sys2Proof/Tests/Slice0.lean ====
section
/-! SUPPORT. Tests of single steps, with expected values from spec/95_test_vectors.md and the rules, and the
witnesses: for each statement with hypotheses a concrete case that meets them. -/

namespace Sys2Proof.Tests

open Sys2Proof.Machine

/-! ### Small states -/

/-- A machine whose block is `b`, with nothing waiting. -/
def withBlock (b : Block) : State := { State.reset with blk := b }

/-- A machine right after reset with these events at its port. -/
def withEvents (es : List Event) : State := { State.reset with pending := es }

/-- A block in the given state, else as after reset. -/
def blockIn (p : Phase) : Block := { Block.reset with st := p }

/-- A block in PARSE with a declared length and a byte count. -/
def parsing (len : Word) (n : Count) : Block := { Block.reset with st := .parse, length := len, count := n }

/-- A block in DONE after a PARSE that ended with this result code. -/
def failed (e : ErrCode) : Block := { Block.reset with st := .done, lastop := .parse, err := e }

/-- A machine in the middle of a PARSE session with a push waiting. -/
def pushWaiting : State := { withBlock (parsing 7 9) with pending := [busWord 0x20 0x41] }

/-- A block that holds the generated chunk of five payload bytes. -/
def heldGen : Block := { Block.reset with st := .done, lastop := .gen, length := 5, count := 5 }

/-- A block that holds the parsed chunk of vector PV-d. -/
def heldParse : Block :=
  let fields := { Block.reset with tag := 0x49454E44, crc := 0x51BD9F7D, rxcrc := 0xAE426082, count := 12 }
  { fields with st := .done, lastop := .parse }

/-- One operation on a block, seen through a function of the block after it. -/
def after {α : Type} (i : Instr) (b : Block) (view : Block → α) : Option α :=
  (nextOf (exec i (withBlock b))).map fun t => view t.blk

/-! ### WellFormed refuses an ill-formed term of each check -/

theorem test_wf_mbz_zero : (Instr.reservedCmdMbz 0 2).wf = false := by decide
theorem test_wf_writable_slot :
    [(0x04 : Offset), 0x0C, 0x20, 0x24, 0x01].all (fun off => !(Instr.wrRefused off 0).wf) = true := by
  decide
theorem test_wf_word_access : (Instr.wrNarrowOrMisaligned 0x04 .four 1).wf = false := by decide

/-! ### Decoding, each word written out from 30_encoding.md R80 to R84 and opcode_table.json -/

theorem test_decode_nop :
    decode (.write 0x04 .four 0b00000000000000000000000000000000) = .nop := by decide
theorem test_decode_abort :
    decode (.write 0x04 .four 0b00000000000000000000000000000001) = .abort := by decide
theorem test_decode_gen :
    decode (.write 0x04 .four 0b00000000000000000000000000000010) = .gen := by decide
theorem test_decode_parse :
    decode (.write 0x04 .four 0b00000000000000000000000000000011) = .parse := by decide
theorem test_decode_raw :
    decode (.write 0x04 .four 0b00000000000000000000000000000100) = .raw := by decide
theorem test_decode_finish :
    decode (.write 0x04 .four 0b00000000000000000000000000000101) = .finish := by decide
theorem test_decode_textchk :
    decode (.write 0x04 .four 0b00000000000000000000000000000110) = .textchk := by decide
theorem test_decode_reserved_7 :
    decode (.write 0x04 .four 0b00000000000000000000000000000111) = .reservedCmd7 := by decide
theorem test_decode_reserved_8_f :
    decode (.write 0x04 .four 0b00000000000000000000000000001011) = .reservedCmd8F 0b011 := by decide
theorem test_decode_reserved_mbz :
    decode (.write 0x04 .four 0b10000000000000000000000000010101)
      = .reservedCmdMbz 0b1000000000000000000000000001 0b0101 := by decide
theorem test_decode_tagw :
    decode (.write 0x0C .four 0b01010010011101010101001101110100) = .tagw 0x52 0x75 0x53 0x74 := by decide
theorem test_decode_push8 :
    decode (.write 0x20 .four 0b11111111000000001010101001100001) = .push8 0xFF00AA 0x61 := by decide
theorem test_decode_push32 :
    decode (.write 0x24 .four 0b00000000000000000000010101010010) = .push32 0x00 0x00 0x05 0x52 := by
  decide
theorem test_decode_wr_refused :
    decode (.write 0x30 .four 0b00000000000000000000000000000001) = .wrRefused 0x30 1 := by decide
theorem test_decode_wr_narrow_or_misaligned :
    decode (.write 0x20 .one 0b00000000000000000000000001000001) = .wrNarrowOrMisaligned 0x20 .one 0x41 ∧
    decode (.write 0x0E .four 0b00000000000000000000000000000001) = .wrNarrowOrMisaligned 0x0E .four 1 := by
  decide
theorem test_decode_rd : decode (.read 0x02 .four) = .rd 0x02 .four := by decide

/-- The host's table word and where the next step finds it (log entries 9 and 10). -/
theorem test_table_word :
    decodeTableWord 32 0x00000005 = some .finish ∧ decodeTableWord 32 0x0000000A = some (.reservedCmd8F 2) ∧
    decodeTableWord 40 0 = none := by decide
theorem test_fetch_word : step (State.reset.withFetchWord 32 0x00000003) = exec .parse State.reset := rfl

/-- 20_memory.md R63: BASE + 0x3F is the last address of the window. -/
theorem test_route_window :
    (match route 0x1000 (.read 0x103F 1) with | .ok op => some op | .error _ => none)
      = some (.read 0x3F .one) ∧
    (match route 0x1000 (.read 0x1040 1) with | .ok _ => none | .error e => some e)
      = some RouteError.outsideWindow ∧
    (match route 0x1000 (.write 0x1000 3 0) with | .ok _ => none | .error e => some e)
      = some RouteError.noBusSize := by decide

/-! ### Single steps -/

/-- 43_commands.md R171: NOP writes nothing, in a session too. -/
theorem test_nop : after .nop (blockIn .gen) id = some (blockIn .gen) := by decide
/-- Vector LV-9: 0xE24 goes to 0x400 and COUNT is kept. -/
theorem test_abort :
    after .abort { failed .truncatedInput with perr := true, count := 4 } (fun b => (status b, b.count))
      = some (0x400, 4) := by decide
/-- P5 step 4: GEN with TAG "IEND" reads CRC 0xAE426082, STATUS 0x401. -/
theorem test_gen :
    after .gen { Block.reset with tag := 0x49454E44 } (fun b => (status b, crcFinal b.crc))
      = some (0x401, 0xAE426082) := by decide +kernel
/-- 43_commands.md R170: a start command in a session is refused. -/
theorem test_gen_refused : after .gen (blockIn .raw) status = some 0xC03 := by decide
/-- P4 step 3: PARSE starts with PERR kept, and TAG is cleared. -/
theorem test_parse :
    after .parse { Block.reset with perr := true, tag := 0x52755374 } (fun b => (status b, b.tag))
      = some (0xC02, 0) := by decide
/-- P5 step 1: RAW gives STATUS 0x403; TAG is kept (43_commands.md R176). -/
theorem test_raw :
    after .raw { Block.reset with tag := 0x52755374 } (fun b => (status b, b.tag))
      = some (0x403, 0x52755374) := by decide
/-- Vector PV-a: FINISH of an empty PARSE gives 0x624. -/
theorem test_finish_truncated : after .finish (blockIn .parse) status = some 0x624 := by decide
/-- Vector PV-k: LENGTH 0xFFFFFFFF and 12 bytes give ERR 3; the sum does not wrap. -/
theorem test_finish_length :
    after .finish { parsing 0xFFFFFFFF 12 with tag := 0x52755374 } status = some 0x634 := by decide
/-- Vector PV-n: TEXTCHK of a valid chunk whose payload is the byte FF gives 0x254. -/
theorem test_textchk :
    after .textchk { Block.reset with st := .done, lastop := .parse, u8 := u8Bad } status = some 0x254 := by
  decide
/-- LV-7: TEXTCHK after RAW (0x704) is refused: 0xF04. -/
theorem test_textchk_refused :
    after .textchk { Block.reset with st := .done, lastop := .raw } status = some 0xF04 := by decide
theorem test_reserved_7 : after .reservedCmd7 Block.reset status = some 0xC00 := by decide
theorem test_reserved_8_f : after (.reservedCmd8F 7) (blockIn .parse) status = some 0xC02 := by decide
theorem test_reserved_mbz : after (.reservedCmdMbz 1 0) (blockIn .gen) status = some 0xC01 := by decide
/-- Vector TV-2: "Ru1t" gives TAGFLAGS 0x12. -/
theorem test_tagw :
    after (.tagw 0x52 0x75 0x31 0x74) Block.reset (fun b => (b.tag, tagFlags b.tag))
      = some (0x52753174, 0x12) := by decide
/-- Vector TW-2: a TAG write in DONE gives STATUS 0x400. -/
theorem test_tagw_done :
    after (.tagw 0x49 0x45 0x4E 0x44) { Block.reset with st := .done, lastop := .raw } status
      = some 0x400 := by decide
/-- Vector CV-16: "a" pushed with bits 31:8 set. -/
theorem test_push8 :
    after (.push8 0xFFFFFF 0x61) (blockIn .raw) (fun b => (crcFinal b.crc, b.count))
      = some (0xE8B7BE43, 1) := by decide
/-- Vector SV-4: byte 12 of a frame of LENGTH 0 is counted and ignored. -/
theorem test_push8_excess :
    after (.push8 0 0x55) { parsing 0 12 with rxcrc := 0xAE426082 } (fun b => (b.rxcrc, b.count))
      = some (0xAE426082, 13) := by decide
/-- Vector SV-2, the second access: the last length byte and the first three tag bytes' first. -/
theorem test_push32_straddles :
    after (.push32 0x00 0x00 0x05 0x52) (parsing 0 1) (fun b => (b.length, b.tag, b.count))
      = some (5, 0x52, 5) := by decide
/-- Vector SV-3: a push outside a session gives 0xC00 with COUNT 0. -/
theorem test_push32_refused :
    after (.push32 0 0 0 0) Block.reset (fun b => (status b, b.count)) = some (0xC00, 0) := by decide
/-- LV-10: a write to ID is refused and ID still reads 0x504E4743. -/
theorem test_wr_refused :
    after (.wrRefused 0x00 1) Block.reset (fun b => (status b, busRead b 0x00 .four))
      = some (0xC00, 0x504E4743) := by decide
/-- Vector TW-5: a narrow write to TAG gives 0xC00 and TAG 0. -/
theorem test_wr_narrow :
    after (.wrNarrowOrMisaligned 0x0C .two 0x3344) Block.reset (fun b => (status b, b.tag))
      = some (0xC00, 0) := by decide
/-- Vectors BV-1 to BV-3. -/
theorem test_rd :
    busRead Block.reset 0x00 .four = 0x504E4743 ∧ busRead Block.reset 0x00 .one = 0 ∧
    busRead Block.reset 0x02 .four = 0 := by decide
/-- 10_state.md R38: the two halves of COUNT. -/
theorem test_rd_count :
    (nextOf (exec (.rd 0x2C .four) (withBlock { Block.reset with count := 0x100000002 }))).map State.reads
      = some [1] ∧
    (nextOf (exec (.rd 0x28 .four) (withBlock { Block.reset with count := 0x100000002 }))).map State.reads
      = some [2] := by decide
/-- Vector TV-19: bit 5 is read of bytes that are no letters. -/
theorem test_tagflags_not_letters : tagFlags 0xC1E1C1E1 = 0x1A ∧ tagFlags 0x60606060 = 0x10 := by decide
/-- 42_stream.md R150: ED A0 (a surrogate) is ill-formed. -/
theorem test_utf8_surrogate : u8Step (u8Step Utf8.init 0xED) 0xA0 = u8Bad := by decide
/-- 30_encoding.md R90, P1's last accesses: the text's tail goes to DATA8. -/
theorem test_pushstr_tail :
    assemble [.pushstr [0x6C, 0x6C, 0x20, 0x62, 0x65, 0x21]]
      = [busWord 0x24 0x6C6C2062, busWord 0x20 0x65, busWord 0x20 0x21] := by decide
/-- PV-d: the buffer of the empty IEND chunk decodes. -/
theorem test_decode_buffer :
    decodeBuffer [0, 0, 0, 0, 0x49, 0x45, 0x4E, 0x44, 0xAE, 0x42, 0x60, 0x82] = .ok := by decide +kernel

/-! ### Witnesses: encoding and routing -/

theorem witness_DecodeOfEncodeGivesTheOperation :
    [Instr.nop, .reservedCmd8F 7, .reservedCmdMbz 1 0, .reservedCmdMbz 0xFFFFFFF 0xF, .tagw 1 2 3 4,
      .push8 0xFFFFFF 0xFF, .push32 1 2 3 4, .wrRefused 0x00 0, .wrRefused 0x3C 0xFFFFFFFF,
      .wrNarrowOrMisaligned 0x04 .two 5, .wrNarrowOrMisaligned 0x3F .four 5, .rd 0x3F .one].all Instr.wf
      = true := by decide

theorem witness_CmdWordSelectsTheCommand :
    (0x8 ≤ (0x8 : Word).toNat ∧ (0x8 : Word).toNat ≤ 0xF) ∧
    (0x8 ≤ (0xF : Word).toNat ∧ (0xF : Word).toNat ≤ 0xF) ∧
    0x10 ≤ (0x10 : Word).toNat ∧ 0x10 ≤ (0xFFFFFFFF : Word).toNat := by decide

/-- Addresses on each side of the window's two ends; below it there are some where BASE is not 0. -/
theorem witness_OnlyWindowAccessesReachTheBlock :
    (0 < Config.base → Config.base - 1 < Config.base) ∧ Config.base + 0x40 ≤ Config.base + 0x40 ∧
    (∃ addr, addr = Config.base + (0x00 : Offset).toNat) ∧
    (∃ addr, addr = Config.base + (0x3F : Offset).toNat) ∧
    ((4 = 1 ∧ AccessSize.four = .one) ∨ (4 = 2 ∧ AccessSize.four = .two) ∨
      (4 = 4 ∧ AccessSize.four = .four)) :=
  ⟨fun h => Nat.sub_lt h (by decide), le_refl _, ⟨_, rfl⟩, ⟨_, rfl⟩, by decide⟩

/-! ### Witnesses: the step and reset -/

theorem witness_StepRunsTheDecodedOperation :
    (withEvents [busWord 0x04 0x2, .reset]).pending = .access (.write 0x04 .four 0x2) :: [.reset] ∧
    (withEvents [busWord 0x04 0x2, .reset]).resetHeld = false := by decide

theorem witness_NoEventNoChange : (withBlock (blockIn .gen)).pending = [] := by decide

theorem witness_ResetRestoresEveryElement :
    { withBlock (parsing 5 9) with pending := [.reset, busWord 0x04 0] }.pending
      = .reset :: [busWord 0x04 0] := by decide

/-- The four clauses: a write and a read that meet reset, a write and a read while it stays asserted. -/
theorem witness_AccessAgainstReset :
    ((withEvents [.assertReset (some (.write 0x04 .four 2))]).resetHeld = false ∧
      (withEvents [.assertReset (some (.write 0x04 .four 2))]).pending
        = .assertReset (some (.write 0x04 .four 2)) :: []) ∧
    ((withEvents [.assertReset (some (.read 0x08 .four))]).resetHeld = false ∧
      (withEvents [.assertReset (some (.read 0x08 .four))]).pending
        = .assertReset (some (.read 0x08 .four)) :: []) ∧
    ({ withEvents [busWord 0x04 2] with resetHeld := true }.resetHeld = true ∧
      { withEvents [busWord 0x04 2] with resetHeld := true }.pending
        = .access (.write 0x04 .four 2) :: []) ∧
    ({ withEvents [.access (.read 0x08 .four)] with resetHeld := true }.resetHeld = true ∧
      { withEvents [.access (.read 0x08 .four)] with resetHeld := true }.pending
        = .access (.read 0x08 .four) :: []) := by decide

/-! ### Witnesses: refusals -/

theorem witness_WriteIsRefusedOrGoesToItsRegister :
    AccessSize.two ≠ .four ∧ (0x3F : Offset).toNat % 4 ≠ 0 ∧
    (0x00 : Offset) ∈ [(0x00 : Offset), 0x08, 0x10, 0x14, 0x18, 0x1C, 0x28, 0x2C] ∧
    (0x2C : Offset) ∈ [(0x00 : Offset), 0x08, 0x10, 0x14, 0x18, 0x1C, 0x28, 0x2C] ∧
    (0x30 : Offset) ∈ [(0x30 : Offset), 0x34, 0x38, 0x3C] ∧
    (0x3C : Offset) ∈ [(0x30 : Offset), 0x34, 0x38, 0x3C] ∧
    (∀ off ∈ [(0x04 : Offset), 0x0C, 0x20, 0x24], ¬ (AccessSize.four ≠ .four ∨ off.toNat % 4 ≠ 0 ∨
      off ∈ [(0x00 : Offset), 0x08, 0x10, 0x14, 0x18, 0x1C, 0x28, 0x2C] ∨
      off ∈ [(0x30 : Offset), 0x34, 0x38, 0x3C])) := by decide

theorem witness_ReservedCommandsOnlySetPerr :
    0x7 ≤ (0x7 : Word).toNat ∧ 0x7 ≤ (0xFFFFFFFF : Word).toNat := by decide

/-- For each cause of 60_exceptions.md R203 a refused operation. -/
theorem witness_RefusedAccessesAreExactlyTheListed_refused :
    refusedIn (.wrNarrowOrMisaligned 0x0C .two 0) Block.reset ∧ refusedIn (.wrRefused 0x30 0) Block.reset ∧
    refusedIn (.reservedCmdMbz 1 0) Block.reset ∧ refusedIn .reservedCmd7 Block.reset ∧
    refusedIn (.reservedCmd8F 0) Block.reset ∧ refusedIn .gen (blockIn .raw) ∧
    refusedIn .parse (blockIn .gen) ∧ refusedIn .raw (blockIn .parse) ∧ refusedIn .finish (blockIn .idle) ∧
    refusedIn .finish (blockIn .done) ∧ refusedIn .textchk (blockIn .done) ∧
    refusedIn (.push8 0 0) (blockIn .idle) ∧ refusedIn (.push32 0 0 0 0) (blockIn .done) ∧
    refusedIn (.tagw 0 0 0 0) (blockIn .parse) := by
  simp [refusedIn, blockIn, Block.reset]

/-- For each operation with a meaning a block in which it is not refused. -/
theorem witness_RefusedAccessesAreExactlyTheListed_accepted :
    ¬ refusedIn .nop (blockIn .gen) ∧ ¬ refusedIn .abort (blockIn .gen) ∧ ¬ refusedIn .gen (blockIn .idle) ∧
    ¬ refusedIn .parse (blockIn .done) ∧ ¬ refusedIn .raw (blockIn .idle) ∧
    ¬ refusedIn .finish (blockIn .raw) ∧
    ¬ refusedIn .textchk { blockIn .done with lastop := .gen } ∧
    ¬ refusedIn .textchk { blockIn .done with lastop := .parse, err := .notUtf8Text } ∧
    ¬ refusedIn (.push8 0 0) (blockIn .gen) ∧ ¬ refusedIn (.push32 0 0 0 0) (blockIn .parse) ∧
    ¬ refusedIn (.tagw 0 0 0 0) (blockIn .done) ∧ ¬ refusedIn (.rd 0 .four) (blockIn .idle) := by
  simp [refusedIn, blockIn, Block.reset]

/-- PERR goes from 1 to 0 by reset and by ABORT. -/
theorem witness_OnlyAbortAndResetClearPerr :
    (∀ e ∈ [Event.reset, .assertReset none, busWord 0x04 1],
      ({ withBlock { Block.reset with perr := true } with pending := [e] }).blk.perr = true ∧
      (nextOf (step { withBlock { Block.reset with perr := true } with pending := [e] })).map
        (fun t => t.blk.perr) = some false) ∧
    (withEvents [.reset]).pending = .reset :: [] ∧
    (withEvents [.assertReset none]).pending = .assertReset none :: [] := by decide

/-! ### Witnesses: who writes what -/

/-- For each element an operation that changes it. -/
theorem witness_EachElementHasOnlyItsWriters :
    after .gen Block.reset (fun b => decide (b.st ≠ .idle)) = some true ∧
    after .finish (blockIn .parse) (fun b => decide (b.err ≠ .ok ∧ b.lastop ≠ .none)) = some true ∧
    after (.tagw 0 0 0 1) Block.reset (fun b => decide (b.tag ≠ 0)) = some true ∧
    after (.push8 0 5) (parsing 0 3) (fun b => decide (b.length ≠ 0 ∧ b.count ≠ 3)) = some true ∧
    after (.push8 0 5) (parsing 0 8) (fun b => decide (b.rxcrc ≠ 0)) = some true ∧
    after (.push8 0 0xC2) (blockIn .raw) (fun b => decide (b.crc ≠ 0xFFFFFFFF ∧ b.u8 ≠ Utf8.init))
      = some true ∧
    (nextOf (exec (.rd 0 .four) State.reset)).map State.reads ≠ some State.reset.reads := by
  decide +kernel

theorem witness_TagWriteInEachState :
    (withBlock (blockIn .idle)).blk.st = .idle ∧ (withBlock (blockIn .done)).blk.st = .done ∧
    (withBlock (blockIn .gen)).blk.st = .gen ∧ (withBlock (blockIn .parse)).blk.st = .parse ∧
    (withBlock (blockIn .raw)).blk.st = .raw := by decide

theorem witness_TagBytesGoMostSignificantFirst :
    ((withBlock (blockIn .idle)).blk.st = .idle ∨ (withBlock (blockIn .idle)).blk.st = .done) ∧
    ((withBlock (blockIn .done)).blk.st = .idle ∨ (withBlock (blockIn .done)).blk.st = .done) := by decide

/-! ### Witnesses: pushes -/

theorem witness_Push8OutsideParse :
    (∀ p ∈ [Phase.gen, .raw], (withBlock (blockIn p)).blk.st = .gen ∨ (withBlock (blockIn p)).blk.st = .raw) ∧
    (∀ p ∈ [Phase.idle, .done],
      (withBlock (blockIn p)).blk.st = .idle ∨ (withBlock (blockIn p)).blk.st = .done) := by decide

/-- Each field of the frame at its first and last offset, with the shortest and the longest payload. -/
theorem witness_Push8InParseFollowsTheFrameOffset :
    (withBlock (parsing 0 0)).blk.st = .parse ∧ (parsing 0 0).count.toNat < 4 ∧
    (parsing 0 3).count.toNat < 4 ∧
    (4 ≤ (parsing 0 4).count.toNat ∧ (parsing 0 4).count.toNat < 8) ∧
    (4 ≤ (parsing 0 7).count.toNat ∧ (parsing 0 7).count.toNat < 8) ∧
    (8 ≤ (parsing 1 8).count.toNat ∧ (parsing 1 8).count.toNat < 8 + (parsing 1 8).length.toNat) ∧
    (8 ≤ (parsing 0xFFFFFFFF 0x100000006).count.toNat ∧
      (parsing 0xFFFFFFFF 0x100000006).count.toNat < 8 + (parsing 0xFFFFFFFF 0x100000006).length.toNat) ∧
    (8 + (parsing 0 8).length.toNat ≤ (parsing 0 8).count.toNat ∧
      (parsing 0 8).count.toNat < 12 + (parsing 0 8).length.toNat) ∧
    (8 + (parsing 0xFFFFFFFF 0x10000000A).length.toNat ≤ (parsing 0xFFFFFFFF 0x10000000A).count.toNat ∧
      (parsing 0xFFFFFFFF 0x10000000A).count.toNat < 12 + (parsing 0xFFFFFFFF 0x10000000A).length.toNat) ∧
    12 + (parsing 0 12).length.toNat ≤ (parsing 0 12).count.toNat ∧
    12 + (parsing 0xFFFFFFFF 0x10000000B).length.toNat ≤ (parsing 0xFFFFFFFF 0x10000000B).count.toNat := by
  decide +kernel

theorem witness_Push32CompletesInASession :
    (∀ p ∈ [Phase.gen, .raw], (withBlock (blockIn p)).blk.st = .gen ∨ (withBlock (blockIn p)).blk.st = .raw) ∧
    (withBlock (blockIn .parse)).blk.st = .parse ∧
    (∀ p ∈ [Phase.idle, .done],
      (withBlock (blockIn p)).blk.st = .idle ∨ (withBlock (blockIn p)).blk.st = .done) := by decide

theorem witness_LengthFieldIsBigEndian :
    (withBlock (blockIn .parse)).blk.st = .parse ∧ (withBlock (blockIn .parse)).blk.count = 0 := by decide

theorem witness_LengthIsFinalAfterOffsetThree :
    isPush (.push8 0 5) ∧ isPush (.push32 1 2 3 4) ∧
    (withBlock (parsing 7 4)).blk.st = .parse ∧ 4 ≤ (withBlock (parsing 7 4)).blk.count.toNat ∧
    (withBlock (parsing 7 4)).blk.count.toNat + 4 ≤ 2 ^ 64 ∧
    4 ≤ (withBlock (parsing 7 0xFFFFFFFFFFFFFFFC)).blk.count.toNat ∧
    (withBlock (parsing 7 0xFFFFFFFFFFFFFFFC)).blk.count.toNat + 4 ≤ 2 ^ 64 ∧
    after (.push32 1 2 3 4) (parsing 7 4) (fun b => b.length) = some 7 :=
  ⟨.inl ⟨_, _, rfl⟩, .inr ⟨_, _, _, _, rfl⟩, by decide +kernel⟩

/-- An ill-formed validator under a push, and under a start command that restarts it. -/
theorem witness_IllFormedUtf8IsSticky :
    (withBlock { blockIn .gen with u8 := u8Bad }).blk.u8.bad = true ∧
    after (.push8 0 0x41) { blockIn .gen with u8 := u8Bad } (fun b => b.u8.bad) = some true ∧
    after .gen { blockIn .idle with u8 := u8Bad } (fun b => b.u8) = some Utf8.init := by decide +kernel

/-! ### Witnesses: commands -/

/-- The states a start command, FINISH and TEXTCHK's frame are stated for. -/
theorem witness_start_and_finish_states :
    (∀ p ∈ [Phase.idle, .done],
      (withBlock (blockIn p)).blk.st = .idle ∨ (withBlock (blockIn p)).blk.st = .done) ∧
    (∀ p ∈ [Phase.gen, .parse, .raw],
      (withBlock (blockIn p)).blk.st = .gen ∨ (withBlock (blockIn p)).blk.st = .parse ∨
      (withBlock (blockIn p)).blk.st = .raw) := by decide

/-- GenStartsWithTheTagBytes, ParseStartsWithTheTagCleared and RawStartsAndKeepsTheTag. -/
theorem witness_GenStartsWithTheTagBytes :
    ((withBlock (blockIn .done)).blk.st = .idle ∨ (withBlock (blockIn .done)).blk.st = .done) ∧
    (withBlock (blockIn .parse)).blk.st = .parse := by decide
theorem witness_ParseStartsWithTheTagCleared :
    ((withBlock (blockIn .idle)).blk.st = .idle ∨ (withBlock (blockIn .idle)).blk.st = .done) ∧
    (withBlock (blockIn .gen)).blk.st = .gen := by decide
theorem witness_RawStartsAndKeepsTheTag :
    ((withBlock (blockIn .done)).blk.st = .idle ∨ (withBlock (blockIn .done)).blk.st = .done) ∧
    (withBlock (blockIn .raw)).blk.st = .raw := by decide

/-- An open session, a closed one, and a FINISH that has completed. -/
theorem witness_FinishEndsTheSessionOnce :
    (withBlock (blockIn .raw)).blk.st = .raw ∧ (withBlock (blockIn .idle)).blk.st = .idle ∧
    (nextOf (exec .finish (withBlock (blockIn .gen)))).isSome = true := by decide

theorem witness_FinishInGenSetsTheLength :
    (blockIn .gen).st = .gen ∧ { blockIn .gen with count := 0 }.count.toNat ≤ 0xFFFFFFFF ∧
    { blockIn .gen with count := 0xFFFFFFFF }.count.toNat ≤ 0xFFFFFFFF ∧
    0xFFFFFFFF < { blockIn .gen with count := 0x100000000 }.count.toNat ∧
    0xFFFFFFFF < { blockIn .gen with count := 0xFFFFFFFFFFFFFFFF }.count.toNat := by decide +kernel

/-- The six outcomes of FINISH in PARSE, from blocks at the boundary of each check. -/
theorem witness_FinishInParseChecksInOrder :
    (parsing 0 11).st = .parse ∧ (parsing 0 11).count.toNat < 12 ∧
    (12 ≤ (parsing 0 12).count.toNat ∧ tagValid (parsing 0 12).tag = false) ∧
    (12 ≤ (parsing 1 12).count.toNat ∧ tagValid { parsing 1 12 with tag := 0x52755374 }.tag = true ∧
      (parsing 1 12).count.toNat ≠ 12 + (parsing 1 12).length.toNat) ∧
    ((parsing 0 12).count.toNat = 12 + (parsing 0 12).length.toNat ∧
      { parsing 0 12 with rxcrc := 1 }.crc ^^^ 0xFFFFFFFF ≠ { parsing 0 12 with rxcrc := 1 }.rxcrc) ∧
    ((parsing 0 12).count.toNat = 12 + (parsing 0 12).length.toNat ∧
      (parsing 0 12).crc ^^^ 0xFFFFFFFF = (parsing 0 12).rxcrc) := by decide

theorem witness_FinishInRawAlwaysSucceeds : (withBlock (blockIn .raw)).blk.st = .raw := by decide

/-- A valid chunk of each mode and ERR with the payload well-formed, ill-formed and cut short, and blocks
that hold none. -/
theorem witness_TextchkReportsUtf8OfAValidChunk :
    (∀ op ∈ [LastOp.gen, .parse], ∀ e ∈ [ErrCode.ok, .notUtf8Text], ∀ u ∈ [Utf8.init, u8Bad, u8Want 1 0x80 0xBF],
      { Block.reset with st := .done, lastop := op, err := e, u8 := u }.validChunk = true) ∧
    (Utf8.init.bad = false ∧ Utf8.init.pend = 0) ∧ ¬ (u8Bad.bad = false ∧ u8Bad.pend = 0) ∧
    ¬ ((u8Want 1 0x80 0xBF).bad = false ∧ (u8Want 1 0x80 0xBF).pend = 0) ∧
    { Block.reset with st := .done, lastop := .raw }.validChunk = false ∧
    { Block.reset with st := .done, lastop := .gen, err := .lengthOverflow }.validChunk = false ∧
    Block.reset.validChunk = false := by decide

/-- "RuSt" and "Rust" are both valid and differ in an advisory bit. -/
theorem witness_AdvisoryTagFlagsGateNothing :
    { parsing 0 12 with tag := 0x52755374 }.st = .parse ∧ tagValid 0x52757374 = tagValid 0x52755374 ∧
    tagFlags 0x52757374 ≠ tagFlags 0x52755374 ∧
    (nextOf (exec .finish (withBlock { parsing 0 12 with tag := 0x52755374 }))).isSome = true ∧
    (nextOf (exec .finish (withBlock { parsing 0 12 with tag := 0x52757374 }))).isSome = true := by decide

/-! ### Witnesses: sessions -/

/-- Any byte sequence can be pushed, here byte by byte. -/
theorem pushedBytes_data8 (bs : List Byte) :
    pushedBytes (bs.map fun b => .data8 (b.setWidth 32)) = bs := by
  induction bs with
  | nil => rfl
  | cons b bs ih =>
    have hb : (b.setWidth 32).extractLsb' 0 8 = b := by
      apply BitVec.eq_of_toNat_eq
      have := b.isLt
      simp only [BitVec.extractLsb'_toNat, BitVec.toNat_setWidth, Nat.shiftRight_zero]
      omega
    have e : pushedBytes ((b :: bs).map fun b => .data8 (b.setWidth 32))
        = (b.setWidth 32).extractLsb' 0 8 :: pushedBytes (bs.map fun b => .data8 (b.setWidth 32)) := rfl
    rw [e, hb, ih]

/-- "a" and four more bytes, in two pushes. -/
def samplePushes : List PushOp := [.data8 0xFFFFFF61, .data32 0x62636465]

theorem witness_session_ready :
    (withEvents (session 0x2 samplePushes)).ready ∧ (withBlock (blockIn .done)).ready := by decide

theorem witness_RawSessionComputesCrc32 :
    (withEvents (session 0x4 samplePushes ++ [.reset])).ready ∧
    (withEvents (session 0x4 samplePushes ++ [.reset])).pending = session 0x4 samplePushes ++ [.reset] := by
  decide

theorem witness_GenSessionComputesTheChunk :
    (withEvents (session 0x2 samplePushes ++ [])).ready ∧
    (withEvents (session 0x2 samplePushes ++ [])).pending = session 0x2 samplePushes ++ [] ∧
    (pushedBytes samplePushes).length < 2 ^ 64 ∧ (pushedBytes samplePushes).length < 2 ^ 32 := by decide +kernel

/-- A payload of any length can be pushed, 2^32 bytes for one, the shortest that overflows. -/
theorem witness_GenSessionComputesTheChunk_overflow (n : Nat) :
    ∃ ps, (pushedBytes ps).length = n :=
  ⟨(List.replicate n (0 : Byte)).map fun b => .data8 (b.setWidth 32), by
    rw [pushedBytes_data8, List.length_replicate]⟩
theorem witness_GenSessionComputesTheChunk_bounds :
    ∃ ps, 2 ^ 32 ≤ (pushedBytes ps).length ∧ (pushedBytes ps).length < 2 ^ 64 := by
  obtain ⟨ps, h⟩ := witness_GenSessionComputesTheChunk_overflow (2 ^ 32)
  exact ⟨ps, by rw [h], by rw [h]; decide⟩

/-- A well-formed payload ("a") and one that is not (FF). -/
theorem witness_TextchkAfterGenDecidesUtf8 :
    (withEvents (session 0x2 [.data8 0x61] ++ [busWord 0x04 0x6])).ready ∧
    (withEvents (session 0x2 [.data8 0x61] ++ busWord 0x04 0x6 :: [])).pending
      = session 0x2 [.data8 0x61] ++ busWord 0x04 0x6 :: [] ∧
    pushedBytes [.data8 0x61] = [0x61] ∧ pushedBytes [.data8 0xFF] = [0xFF] ∧
    (pushedBytes [.data8 0x61]).length < 2 ^ 32 := by decide +kernel
theorem witness_WellFormedUtf8 : WellFormedUtf8 [0x61] :=
  .char [(0x00, 0x7F)] [0x61] [] (by decide) (.cons (by decide) .nil) .empty
theorem witness_not_WellFormedUtf8 : ¬ WellFormedUtf8 [0xFF] := by
  intro h
  generalize hb : ([0xFF] : List Byte) = xs at h
  cases h with
  | empty => cases hb
  | char row bs rest mem fits more =>
    cases fits with
    | nil => exact absurd mem (by decide)
    | cons first others =>
      rename_i r b rs cs
      have e : b = 0xFF := by simpa using (List.cons.inj hb).1.symm
      have high := first.2
      rw [e] at high
      simp only [utf8Rows, List.mem_cons, List.not_mem_nil, or_false, List.cons.injEq] at mem
      rcases mem with h | h | h | h | h | h | h | h | h <;>
        (rw [h.1] at high; exact absurd high (by decide))

theorem witness_ParseSessionCapturesTheFrame :
    (withEvents (busWord 0x04 0x3 :: samplePushes.map PushOp.event ++ [])).ready ∧
    (withEvents (busWord 0x04 0x3 :: samplePushes.map PushOp.event ++ [])).pending
      = busWord 0x04 0x3 :: samplePushes.map PushOp.event ++ [] ∧
    (pushedBytes samplePushes).length < 2 ^ 64 := by decide +kernel

/-- PV-d pushed as three words is a buffer that decodes. -/
theorem witness_ParseSessionIsDecodeOfTheBuffer :
    (withEvents (session 0x3 [.data32 0, .data32 0x49454E44, .data32 0xAE426082] ++ [])).ready ∧
    decodeBuffer (pushedBytes [.data32 0, .data32 0x49454E44, .data32 0xAE426082]) = .ok ∧
    (pushedBytes [.data32 0, .data32 0x49454E44, .data32 0xAE426082]).length < 2 ^ 64 := by decide +kernel

/-- A valid and an invalid tag; the frame of any held chunk can be pushed. -/
theorem witness_EncodeThenDecodeGivesTheChunkBack :
    (withEvents (busWord 0x0C 0x52755374 :: session 0x2 samplePushes)).ready ∧
    (withEvents (busWord 0x0C 0x52755374 :: session 0x2 samplePushes)).pending
      = busWord 0x0C 0x52755374 :: session 0x2 samplePushes ∧
    (pushedBytes samplePushes).length < 2 ^ 32 ∧
    tagValid 0x52755374 = true ∧ tagValid 0x52753174 = false := by decide +kernel
theorem witness_EncodeThenDecodeGivesTheChunkBack_frame (b : Block) :
    ∃ qs, pushedBytes qs = encodeChunk b (pushedBytes samplePushes) :=
  ⟨_, pushedBytes_data8 _⟩

/-! ### Witnesses: the invariant -/

/-- A block in the middle of a PARSE session and one that holds a generated chunk meet the invariant, and
a step from each answers a next state. -/
theorem witness_EveryStepKeepsTheInvariant :
    pushWaiting.Inv ∧ (withBlock heldGen).Inv ∧
    (nextOf (step pushWaiting)).map (fun t => t.blk.count) = some 10 ∧
    after .textchk heldGen (fun b => b.err) = some .ok :=
  ⟨by decide, by decide, by decide, by decide⟩
theorem witness_EveryStepKeepsTheInvariant_held (rest : List Event) :
    State.Inv { State.reset with pending := .releaseReset :: rest, resetHeld := true } :=
  ⟨show Block.reset.Inv by decide, fun _ => rfl⟩

/-- A generated chunk and PV-d's parsed chunk. -/
theorem witness_ValidChunkRegistersAgree :
    (withBlock heldGen).Inv ∧ heldGen.validChunk = true ∧ heldGen.lastop = .gen ∧
    (withBlock heldParse).Inv ∧ heldParse.validChunk = true ∧ heldParse.lastop = .parse :=
  ⟨by decide, by decide, by decide, by decide, by decide, by decide⟩

/-- The invariant rules states out: a result code in a session, a parsed chunk without a valid tag. -/
theorem test_invariant_is_not_trivial :
    ¬ (withBlock { failed .truncatedInput with st := .gen }).Inv ∧ ¬ (withBlock (failed .ok)).Inv := by
  constructor <;> decide

end Sys2Proof.Tests
end

section
/-! PROOFS of 20_memory.md: reads and writes of the window, and which register each reaches. -/

namespace Sys2Proof.Machine

/-! ### Writes -/

/-- 20_memory.md R64: a refused write is `raise PERR`, whichever of the two operations it is. -/
theorem exec_wrRefused (off : Offset) (data : Word) (s : State) :
    exec (.wrRefused off data) s = .next (s.onBlock Block.withPerr) := rfl
theorem exec_wrNarrowOrMisaligned (off : Offset) (size : AccessSize) (data : Word) (s : State) :
    exec (.wrNarrowOrMisaligned off size data) s = .next (s.onBlock Block.withPerr) := rfl

theorem isWordAccess_eq_false_iff (off : Offset) (size : AccessSize) :
    isWordAccess off size = false ↔ size ≠ .four ∨ off.toNat % 4 ≠ 0 := by
  rw [← Bool.not_eq_true, isWordAccess_iff, not_and_or]

/-- The sixteen aligned slots of the window: those refused to writes and the four others. -/
theorem aligned_slot_cases : ∀ off : Offset, off.toNat % 4 = 0 →
    (off ∈ readOnlySlots ∨ off ∈ reservedSlots) ∨
      off = 0x04 ∨ off = 0x0C ∨ off = 0x20 ∨ off = 0x24 := by
  decide

/-- The ignored bits and the byte of a DATA8 word make up the word (30_encoding.md R83). -/
theorem push8_fields_append (data : Word) : data.extractLsb' 8 24 ++ data.extractLsb' 0 8 = data := by
  apply BitVec.eq_of_toNat_eq
  simp only [toNat_append_eq, BitVec.extractLsb'_toNat, Nat.shiftRight_eq_div_pow]
  omega

/-- A write that meets one of the four conditions of 20_memory.md R64 runs as `raise PERR`. -/
theorem exec_decode_refused_write {off : Offset} {size : AccessSize} (data : Word) (s : State)
    (h : isWordAccess off size = false ∨ off ∈ readOnlySlots ∨ off ∈ reservedSlots) :
    exec (decode (.write off size data)) s = .next (s.onBlock Block.withPerr) := by
  cases hword : isWordAccess off size with
  | false => rw [decode_not_word data hword, exec_wrNarrowOrMisaligned]
  | true =>
    obtain ⟨rfl, -⟩ := (isWordAccess_iff off size).mp hword
    have hslot : off ∈ readOnlySlots ∨ off ∈ reservedSlots := h.resolve_left (by simp [hword])
    rw [decode_refused_slot data hslot, exec_wrRefused]

/-- Settles O17: a narrow or misaligned write and a write to one of the twelve refused slots decode to the
two refused operations; the four slots left are CMD, TAG, DATA8 and DATA32. -/
theorem writeIsRefusedOrGoesToItsRegister : Obligations.WriteIsRefusedOrGoesToItsRegister := by
  intro off size data
  refine ⟨fun hrefused s => ?_, fun haccepted => ?_⟩
  · exact exec_decode_refused_write data s <| by
      rwa [isWordAccess_eq_false_iff, or_assoc]
  · simp only [not_or, not_not] at haccepted
    obtain ⟨rfl, haligned, hreadOnly, hreserved⟩ := haccepted
    rcases aligned_slot_cases off haligned with (h | h) | rfl | rfl | rfl | rfl
    · exact absurd h hreadOnly
    · exact absurd h hreserved
    · exact .inl ⟨rfl, decode_cmd data⟩
    · exact .inr (.inl ⟨rfl, _, _, _, _, decode_tagw data, wordOfBytes_wordByte data⟩)
    · exact .inr (.inr (.inl ⟨rfl, _, _, decode_push8 data, push8_fields_append data⟩))
    · exact .inr (.inr (.inr ⟨rfl, _, _, _, _, decode_push32 data, wordOfBytes_wordByte data⟩))

/-! ### Reads -/

/-- 20_memory.md R65: a read adds the value at its offset to the observation and changes nothing else. -/
theorem exec_rd {off : Offset} {size : AccessSize} {s : State} {v : Word}
    (h : busRead s.blk off size = v) :
    exec (.rd off size) s = .next { s with reads := s.reads ++ [v] } := by
  subst h; rfl

theorem notMem_readOnlySlots_iff (off : Offset) : off ∉ readOnlySlots ↔
    off ≠ 0x00 ∧ off ≠ 0x08 ∧ off ≠ 0x10 ∧ off ≠ 0x14 ∧ off ≠ 0x18 ∧ off ≠ 0x1C ∧ off ≠ 0x28 ∧
      off ≠ 0x2C := by
  simp only [readOnlySlots, List.mem_cons, List.not_mem_nil, or_false, not_or, ne_eq]

/-- CMD, DATA8, DATA32 and the reserved slots read 0, as does every misaligned offset
(20_memory.md R65). -/
theorem readRegister_of_unreadable {off : Offset} (b : Block) (hreadOnly : off ∉ readOnlySlots)
    (htag : off ≠ 0x0C) : readRegister b off = 0x00000000 := by
  simp only [notMem_readOnlySlots_iff, ne_eq, BitVec.toNat_eq] at hreadOnly htag
  unfold readRegister
  -- the hypotheses exclude each of the nine offsets that are listed before the last case
  split
  case h_10 => rfl
  all_goals simp_all

/-- COUNT_LO and COUNT_HI are COUNT modulo 2^32 and COUNT shifted right by 32 (10_state.md R38). -/
theorem readRegister_countLo (b : Block) : readRegister b 0x28 = b.count.setWidth 32 :=
  (BitVec.setWidth_eq_extractLsb' (by decide)).symm
theorem readRegister_countHi (b : Block) : readRegister b 0x2C = (b.count >>> 32).setWidth 32 := by
  apply BitVec.eq_of_toNat_eq
  simp [readRegister]

/-- Settles O13, register by register along the offsets of 10_state.md R22. -/
theorem readReturnsTheRegister : Obligations.ReadReturnsTheRegister := by
  intro s off size
  refine exec_rd ?_
  by_cases hrefused : size ≠ .four ∨ off.toNat % 4 ≠ 0
  · rw [if_pos hrefused]
    exact busRead_of_not_word s.blk ((isWordAccess_eq_false_iff off size).mpr hrefused)
  · have hword : isWordAccess off size = true := by simpa [isWordAccess_iff] using hrefused
    rw [if_neg hrefused, busRead_of_word s.blk hword]
    split_ifs with hid hstatus htag htagFlags hlength hcrc hrxcrc hcountLo hcountHi
    · subst hid; rfl
    · subst hstatus; rfl
    · subst htag; rfl
    · subst htagFlags; rfl
    · subst hlength; rfl
    · subst hcrc; rfl
    · subst hrxcrc; rfl
    · subst hcountLo; exact readRegister_countLo s.blk
    · subst hcountHi; exact readRegister_countHi s.blk
    · have hreadOnly : off ∉ readOnlySlots := (notMem_readOnlySlots_iff off).mpr
        ⟨hid, hstatus, htagFlags, hlength, hcrc, hrxcrc, hcountLo, hcountHi⟩
      exact readRegister_of_unreadable s.blk hreadOnly htag

end Sys2Proof.Machine
end

section
/-! PROOFS of 30_encoding.md: the CMD words, and PUSH32 as four PUSH8. -/

namespace Sys2Proof.Machine

open Sys2Proof.Laws

/-! ### CMD words -/

/-- A word of 0x8 to 0xF is the CMD word of its three low bits behind a set bit 3 (30_encoding.md R81). -/
theorem eq_cmdWord_of_8_to_F {data : Word} (hlo : 0x8 ≤ data.toNat) (hhi : data.toNat ≤ 0xF) :
    data = cmdWord (1#1 ++ BitVec.ofNat 3 (data.toNat - 8)) := by
  apply BitVec.eq_of_toNat_eq
  simp only [cmdWord, BitVec.toNat_setWidth, toNat_append_eq, BitVec.toNat_ofNat]
  omega

/-- MBZ and OP, as numbers, make up the CMD word (30_encoding.md R81). -/
theorem eq_mbz_append_op (data : Word) :
    data = BitVec.ofNat 28 (data.toNat / 16) ++ BitVec.ofNat 4 (data.toNat % 16) := by
  apply BitVec.eq_of_toNat_eq
  simp only [toNat_append_eq, BitVec.toNat_ofNat]
  omega

theorem mbz_ne_zero {data : Word} (h : 0x10 ≤ data.toNat) :
    BitVec.ofNat 28 (data.toNat / 16) ≠ 0 := by
  intro hzero
  have hnat := congrArg BitVec.toNat hzero
  simp only [BitVec.ofNat_eq_ofNat, BitVec.toNat_ofNat] at hnat
  omega

theorem decode_cmd_8_to_F {data : Word} (hlo : 0x8 ≤ data.toNat) (hhi : data.toNat ≤ 0xF) :
    decode (.write 0x04 .four data) = .reservedCmd8F (BitVec.ofNat 3 (data.toNat - 8)) :=
  calc decode (.write 0x04 .four data)
    _ = decode (encode (.reservedCmd8F (BitVec.ofNat 3 (data.toNat - 8)))) :=
      congrArg (fun w => decode (.write 0x04 .four w)) (eq_cmdWord_of_8_to_F hlo hhi)
    _ = .reservedCmd8F (BitVec.ofNat 3 (data.toNat - 8)) := CodecAgrees.reservedCmd8F _ rfl

theorem decode_cmd_mbz {data : Word} (h : 0x10 ≤ data.toNat) :
    decode (.write 0x04 .four data)
      = .reservedCmdMbz (BitVec.ofNat 28 (data.toNat / 16)) (BitVec.ofNat 4 (data.toNat % 16)) :=
  calc decode (.write 0x04 .four data)
    _ = decode (encode (.reservedCmdMbz (BitVec.ofNat 28 (data.toNat / 16))
          (BitVec.ofNat 4 (data.toNat % 16)))) :=
      congrArg (fun w => decode (.write 0x04 .four w)) (eq_mbz_append_op data)
    _ = _ := CodecAgrees.reservedCmdMbz _ _ (bne_iff_ne.mpr (mbz_ne_zero h))

/-- 43_commands.md R170: a CMD word with a nonzero MBZ is `raise PERR` in every state. -/
theorem exec_reservedCmdMbz (mbz : BitVec 28) (op : BitVec 4) (s : State) :
    exec (.reservedCmdMbz mbz op) s = .next (s.onBlock Block.withPerr) := rfl

/-- Settles O4: the eight words below 0x8 are the codec's own, and every other word encodes the reserved
operation it decodes to. -/
theorem cmdWordSelectsTheCommand : Obligations.CmdWordSelectsTheCommand := by
  refine ⟨CodecAgrees.nop rfl, CodecAgrees.abort rfl, CodecAgrees.gen rfl, CodecAgrees.parse rfl,
    CodecAgrees.raw rfl, CodecAgrees.finish rfl, CodecAgrees.textchk rfl, CodecAgrees.reservedCmd7 rfl,
    fun data hlo hhi => decode_cmd_8_to_F hlo hhi, fun data h => ⟨decode_cmd_mbz h, fun s => ?_⟩⟩
  rw [decode_cmd_mbz h]
  exact exec_reservedCmdMbz _ _ s

/-! ### PUSH32 and PUSH8 -/

/-- A byte zero-extended to a DATA8 word is the byte the write pushes (30_encoding.md R83). -/
theorem extract_byte_setWidth (b : Byte) : (b.setWidth 32).extractLsb' 0 8 = b := by
  rw [← BitVec.setWidth_eq_extractLsb' (by decide), BitVec.setWidth_setWidth_of_le _ (by decide),
    BitVec.setWidth_eq]

/-- A byte written to DATA8 in a session is pushed; outside one the write is refused (42_stream.md R140). -/
theorem exec_decode_data8 (b : Byte) (s : State) :
    exec (decode (.write 0x20 .four (b.setWidth 32))) s = runIf s.blk.st.inSession (pushByte b) s := by
  rw [decode_push8, extract_byte_setWidth]
  rfl
theorem exec_decode_data8_of_open {s : State} (b : Byte) (h : s.blk.st.inSession = true) :
    exec (decode (.write 0x20 .four (b.setWidth 32))) s = .next (s.onBlock (pushByte b)) := by
  rw [exec_decode_data8, h, runIf_true]
theorem exec_decode_data8_of_closed {s : State} (b : Byte) (h : s.blk.st.inSession = false) :
    exec (decode (.write 0x20 .four (b.setWidth 32))) s = .next (s.onBlock Block.withPerr) := by
  rw [exec_decode_data8, h, runIf_false]

/-- A word written to DATA32 in a session is its four bytes pushed (42_stream.md R141). -/
theorem exec_decode_data32 (w : Word) (s : State) :
    exec (decode (.write 0x24 .four w)) s = runIf s.blk.st.inSession (pushBytes (be32 w)) s := rfl

/-- A pushed byte leaves a session open (42_stream.md R142). -/
theorem inSession_onBlock_pushByte {s : State} (b : Byte) (h : s.blk.st.inSession = true) :
    (s.onBlock (pushByte b)).blk.st.inSession = true := by
  rwa [State.onBlock_blk, pushByte_st]

/-- A refused access keeps a session closed, and a second one changes nothing (60_exceptions.md R202). -/
theorem inSession_onBlock_withPerr {s : State} (h : s.blk.st.inSession = false) :
    (s.onBlock Block.withPerr).blk.st.inSession = false := by
  rwa [State.onBlock_blk, Block.withPerr_st]
theorem onBlock_withPerr_twice (s : State) :
    (s.onBlock Block.withPerr).onBlock Block.withPerr = s.onBlock Block.withPerr := rfl

/-- Settles O27. In a session each byte finds the session still open, and the four pushes are the fold that
PUSH32 runs; outside one each write sets PERR, which is already set from the second on. -/
theorem push32IsFourPush8 : Obligations.Push32IsFourPush8 := by
  intro s w
  cases h : s.blk.st.inSession with
  | true =>
    have h1 := inSession_onBlock_pushByte (w.extractLsb' 24 8) h
    have h2 := inSession_onBlock_pushByte (w.extractLsb' 16 8) h1
    have h3 := inSession_onBlock_pushByte (w.extractLsb' 8 8) h2
    refine ⟨_, _, _, _, exec_decode_data8_of_open _ h, exec_decode_data8_of_open _ h1,
      exec_decode_data8_of_open _ h2, exec_decode_data8_of_open _ h3, ?_⟩
    rw [exec_decode_data32, h, runIf_true]
    rfl
  | false =>
    have refusedAgain (b : Byte) : exec (decode (.write 0x20 .four (b.setWidth 32)))
        (s.onBlock Block.withPerr) = .next (s.onBlock Block.withPerr) := by
      rw [exec_decode_data8_of_closed b (inSession_onBlock_withPerr h), onBlock_withPerr_twice]
    refine ⟨_, _, _, _, exec_decode_data8_of_closed _ h, refusedAgain _, refusedAgain _,
      refusedAgain _, ?_⟩
    rw [exec_decode_data32, h, runIf_false]

end Sys2Proof.Machine
end

section
/-! PROOFS of 40_tag.md: a write to TAG in each of the five states. -/

namespace Sys2Proof.Machine

theorem writeTag_of_done {b : Block} (data : Word) (h : b.st = .done) :
    writeTag data b = { b with tag := data, st := .idle, err := .ok, lastop := .none } := if_pos h
theorem writeTag_of_not_done {b : Block} (data : Word) (h : b.st ≠ .done) :
    writeTag data b = { b with tag := data } := if_neg h

/-- 40_tag.md R106: TAGW writes the word of its four bytes outside a session, and is `raise PERR` in one. -/
theorem exec_tagw_of_closed {s : State} (b0 b1 b2 b3 : Byte) (h : s.blk.st.inSession = false) :
    exec (.tagw b0 b1 b2 b3) s = .next (s.onBlock (writeTag (wordOfBytes b0 b1 b2 b3))) := by
  change runIf (!s.blk.st.inSession) _ s = _
  rw [h, Bool.not_false, runIf_true]
theorem exec_tagw_of_open {s : State} (b0 b1 b2 b3 : Byte) (h : s.blk.st.inSession = true) :
    exec (.tagw b0 b1 b2 b3) s = .next (s.onBlock Block.withPerr) := by
  change runIf (!s.blk.st.inSession) _ s = _
  rw [h, Bool.not_true, runIf_false]

/-- A word written to TAG outside a session is stored whole: its four bytes put together again
(30_encoding.md R82). -/
theorem exec_decode_tag_of_closed {s : State} (data : Word) (h : s.blk.st.inSession = false) :
    exec (decode (.write 0x0C .four data)) s = .next { s with blk := writeTag data s.blk } := by
  rw [decode_tagw, exec_tagw_of_closed _ _ _ _ h, wordOfBytes_wordByte]
  rfl

/-- Settles O23: outside a session the word is stored, and DONE alone discards the result; the three
session states refuse the write. -/
theorem tagWriteInEachState : Obligations.TagWriteInEachState := by
  intro s data
  refine ⟨⟨_, _, _, _, decode_tagw data⟩, fun hidle => ?_, fun hdone => ?_, fun hsession => ?_⟩
  · rw [exec_decode_tag_of_closed data ((Phase.inSession_eq_false _).mpr (.inl hidle)),
      writeTag_of_not_done data (by simp [hidle])]
  · rw [exec_decode_tag_of_closed data ((Phase.inSession_eq_false _).mpr (.inr hdone)),
      writeTag_of_done data hdone]
  · rw [decode_tagw, exec_tagw_of_open _ _ _ _ ((Phase.inSession_eq_true _).mpr hsession)]
    rfl

end Sys2Proof.Machine
end

section
/-! PROOFS of 41_crc.md: the CRC step is linear over GF(2), and what follows for the table, the residue and
the reference values. -/

namespace Sys2Proof.Machine

/-! ### The shift register -/

/-- 41_crc.md R120: a turn is polynomial arithmetic over GF(2), so it commutes with XOR. Two low bits that
are both 1 cancel, and so do the two polynomials they add. -/
theorem crcShift_xor (c d : Word) : crcShift (c ^^^ d) = crcShift c ^^^ crcShift d := by
  have hshift : (c ^^^ d) >>> 1 = (c >>> 1) ^^^ (d >>> 1) := BitVec.ushiftRight_xor_distrib c d 1
  unfold crcShift
  rw [BitVec.getLsbD_xor, hshift]
  match c.getLsbD 0, d.getLsbD 0 with
  | false, false => rfl
  | false, true => exact BitVec.xor_assoc _ _ _
  | true, false =>
    change (c >>> 1 ^^^ d >>> 1) ^^^ crcPoly = (c >>> 1 ^^^ crcPoly) ^^^ d >>> 1
    ac_rfl
  | true, true =>
    calc c >>> 1 ^^^ d >>> 1
      _ = (c >>> 1 ^^^ d >>> 1) ^^^ (crcPoly ^^^ crcPoly) := by
        rw [BitVec.xor_self, BitVec.xor_zero]
      _ = (c >>> 1 ^^^ crcPoly) ^^^ (d >>> 1 ^^^ crcPoly) := by ac_rfl

theorem crcShifts_xor (n : Nat) (c d : Word) :
    crcShifts n (c ^^^ d) = crcShifts n c ^^^ crcShifts n d := by
  induction n generalizing c d with
  | zero => rfl
  | succ n ih => simp only [crcShifts, crcShift_xor, ih]

theorem crcShifts_add (m n : Nat) (c : Word) : crcShifts (m + n) c = crcShifts n (crcShifts m c) := by
  induction m generalizing c with
  | zero => rw [Nat.zero_add]; rfl
  | succ m ih => rw [Nat.succ_add]; exact ih (crcShift c)

/-- While the bits that leave are 0 no turn adds the polynomial (41_crc.md R120). -/
theorem crcShifts_of_low_bits_zero (n : Nat) {c : Word} (h : ∀ i < n, c.getLsbD i = false) :
    crcShifts n c = c >>> n := by
  induction n generalizing c with
  | zero => exact (BitVec.ushiftRight_zero c).symm
  | succ n ih =>
    have hturn : crcShift c = c >>> 1 := if_neg (ne_true_of_eq_false (h 0 n.succ_pos))
    have hrest : ∀ i < n, (c >>> 1).getLsbD i = false := fun i hi => by
      rw [BitVec.getLsbD_ushiftRight]
      exact h _ (by omega)
    calc crcShifts (n + 1) c
      _ = crcShifts n (c >>> 1) := congrArg (crcShifts n) hturn
      _ = c >>> 1 >>> n := ih hrest
      _ = c >>> (n + 1) := by rw [Nat.add_comm, BitVec.shiftRight_add]

/-! ### A byte at a time -/

theorem setWidth_byte_shiftRight_eight (b : Byte) : b.setWidth 32 >>> 8 = 0#32 := by
  apply BitVec.eq_of_toNat_eq
  simp only [BitVec.toNat_ushiftRight, BitVec.toNat_setWidth, BitVec.toNat_ofNat,
    Nat.shiftRight_eq_div_pow]
  omega

/-- A word with its low byte cleared goes through eight turns as a plain shift. -/
theorem crcShifts_eight_rest (w : Word) :
    crcShifts 8 ((w.extractLsb' 0 8).setWidth 32 ^^^ w) = w >>> 8 := by
  rw [crcShifts_of_low_bits_zero 8 fun i hi => by simp [hi, show i < 32 by omega],
    BitVec.ushiftRight_xor_distrib, setWidth_byte_shiftRight_eight, BitVec.zero_xor]

/-- Eight turns on a register XOR a word absorb the low byte of the word and shift the rest of it. -/
theorem crcShifts_eight_xor (c w : Word) :
    crcShifts 8 (c ^^^ w) = crcStep c (w.extractLsb' 0 8) ^^^ (w >>> 8) := by
  set low : Word := (w.extractLsb' 0 8).setWidth 32
  calc crcShifts 8 (c ^^^ w)
    _ = crcShifts 8 ((c ^^^ low) ^^^ (low ^^^ w)) := by
      rw [BitVec.xor_assoc, ← BitVec.xor_assoc low, BitVec.xor_self, BitVec.zero_xor]
    _ = crcShifts 8 (c ^^^ low) ^^^ crcShifts 8 (low ^^^ w) := crcShifts_xor 8 _ _
    _ = crcStep c (w.extractLsb' 0 8) ^^^ (w >>> 8) := congrArg _ (crcShifts_eight_rest w)

theorem crcTable_eq_crcStep_zero (n : Byte) : crcTable n = crcStep 0#32 n := by
  simp [crcTable, crcStep]

/-- 41_crc.md R121: the register shifts by a byte, and the table answers for the byte that leaves. -/
theorem crcStep_eq_table (c : Word) (b : Byte) :
    crcStep c b = (c >>> 8) ^^^ crcTable ((c ^^^ b.setWidth 32).extractLsb' 0 8) := by
  set w := c ^^^ b.setWidth 32 with hw
  have hrest : w >>> 8 = c >>> 8 := by
    rw [hw, BitVec.ushiftRight_xor_distrib, setWidth_byte_shiftRight_eight, BitVec.xor_zero]
  calc crcStep c b
    _ = crcShifts 8 (0#32 ^^^ w) := by rw [BitVec.zero_xor]; rfl
    _ = crcStep 0#32 (w.extractLsb' 0 8) ^^^ (w >>> 8) := crcShifts_eight_xor 0#32 w
    _ = (c >>> 8) ^^^ crcTable (w.extractLsb' 0 8) := by
      rw [hrest, BitVec.xor_comm, crcTable_eq_crcStep_zero]

/-- Settles O43: the identity from the linearity of a turn, the six entries by running the table. -/
theorem tableStepEqualsBitwiseStep : Obligations.TableStepEqualsBitwiseStep := by
  refine ⟨crcStep_eq_table, ?_⟩
  decide

/-! ### The residue -/

theorem extractLsb'_shiftRight (w : Word) (start n : Nat) :
    (w >>> n).extractLsb' start 8 = w.extractLsb' (n + start) 8 := by
  apply BitVec.eq_of_toNat_eq
  simp only [BitVec.extractLsb'_toNat, BitVec.toNat_ushiftRight, Nat.shiftRight_add]

/-- A word absorbed least significant byte first is 32 turns on the register XOR the word. -/
theorem crcFold_le_bytes (c w : Word) :
    crcFold c [w.extractLsb' 0 8, w.extractLsb' 8 8, w.extractLsb' 16 8, w.extractLsb' 24 8]
      = crcShifts 32 (c ^^^ w) := by
  have hnone : w >>> 32 = 0#32 := BitVec.ushiftRight_eq_zero (le_refl 32)
  calc crcFold c [w.extractLsb' 0 8, w.extractLsb' 8 8, w.extractLsb' 16 8, w.extractLsb' 24 8]
    _ = crcShifts 8 (crcShifts 8 (crcShifts 8 (crcShifts 8 (c ^^^ w)))) := by
      simp only [crcShifts_eight_xor, extractLsb'_shiftRight, ← BitVec.shiftRight_add,
        Nat.reduceAdd, hnone, BitVec.xor_zero, crcFold_cons, crcFold_nil]
    _ = crcShifts 32 (c ^^^ w) := by simp only [← crcShifts_add, Nat.reduceAdd]

/-- The register XOR the checksum read from it is the final XOR value (10_state.md R34). -/
theorem xor_crcFinal (c : Word) : c ^^^ crcFinal c = crcInit := by
  rw [crcFinal, ← BitVec.xor_assoc, BitVec.xor_self, BitVec.zero_xor]

theorem crcFinal_crcShifts_32_crcInit : crcFinal (crcShifts 32 crcInit) = 0x2144DF1C := by decide +kernel

/-- 41_crc.md R126: whatever the message, its checksum brings the register to one value. -/
theorem crc32_append_le_bytes (m : List Byte) :
    crc32 (m ++ [(crc32 m).extractLsb' 0 8, (crc32 m).extractLsb' 8 8, (crc32 m).extractLsb' 16 8,
      (crc32 m).extractLsb' 24 8]) = 0x2144DF1C := by
  set w := crc32 m
  set c := crcFold crcInit m
  calc crc32 (m ++ [w.extractLsb' 0 8, w.extractLsb' 8 8, w.extractLsb' 16 8, w.extractLsb' 24 8])
    _ = crcFinal (crcFold c
          [w.extractLsb' 0 8, w.extractLsb' 8 8, w.extractLsb' 16 8, w.extractLsb' 24 8]) :=
      congrArg crcFinal (crcFold_append crcInit m _)
    _ = crcFinal (crcShifts 32 (c ^^^ crcFinal c)) := congrArg crcFinal (crcFold_le_bytes c w)
    _ = 0x2144DF1C := by rw [xor_crcFinal, crcFinal_crcShifts_32_crcInit]

/-- Settles O45: the residue for every message, and the big-endian value of one message by running it. -/
theorem littleEndianResidueIsConstant : Obligations.LittleEndianResidueIsConstant := by
  refine ⟨crc32_append_le_bytes, ?_⟩
  decide +kernel

/-! ### Reference values -/

/-- Settles O44: the model runs on each of the listed sequences. -/
theorem referenceChecksums : Obligations.ReferenceChecksums := by
  unfold Obligations.ReferenceChecksums
  decide +kernel

end Sys2Proof.Machine
end

section
/-! PROOFS of 42_stream.md: the validator's state names the byte ranges still wanted, and what it accepts is
a sequence that fills them and goes on with whole rows of the table. -/

namespace Sys2Proof.Machine

/-! ### The byte ranges a state wants -/

/-- The ranges of the bytes that end the open character: the next one in `lo..hi`, the others in
0x80..0xBF (42_stream.md R150). -/
def Utf8.wanted (u : Utf8) : List (Byte × Byte) :=
  match u.pend.val with
  | 0 => []
  | n + 1 => (u.lo, u.hi) :: List.replicate n (0x80, 0xBF)

theorem Utf8.wanted_eq_nil_iff (u : Utf8) : u.wanted = [] ↔ u.pend = 0 := by
  rw [Fin.ext_iff, Utf8.wanted]
  cases u.pend.val <;> simp

theorem Utf8.wanted_eq_cons {u : Utf8} {r : Byte × Byte} {rs : List (Byte × Byte)}
    (h : u.wanted = r :: rs) :
    u.pend.val > 0 ∧ r = (u.lo, u.hi) ∧ rs = List.replicate (u.pend.val - 1) (0x80, 0xBF) := by
  unfold Utf8.wanted at h
  split at h
  · cases h
  · next n hpend =>
    obtain ⟨rfl, rfl⟩ := List.cons.inj h
    simp [hpend]

/-- Between characters no range is wanted. -/
@[simp] theorem Utf8.wanted_init : Utf8.init.wanted = [] := rfl

@[simp] theorem u8Want_bad (n : Fin 4) (lo hi : Byte) : (u8Want n lo hi).bad = false := rfl

/-- The state of a character with `n` bytes to come, all of them plain continuation bytes. -/
theorem wanted_u8Want_plain (n : Fin 4) :
    (u8Want n 0x80 0xBF).wanted = List.replicate n.val (0x80, 0xBF) := by
  simp only [Utf8.wanted, u8Want]
  cases n.val <;> simp [List.replicate_succ]

/-! ### One byte -/

theorem u8Step_of_wanted_nil {u : Utf8} (b : Byte) (hbad : u.bad = false) (h : u.wanted = []) :
    u8Step u b = u8Start b := by
  simp [u8Step, hbad, (Utf8.wanted_eq_nil_iff u).mp h]

/-- 42_stream.md R150 inside a character: the byte is accepted exactly when it is in the next range wanted,
and the ranges after it stay wanted. -/
theorem u8Step_of_wanted_cons {u : Utf8} {r : Byte × Byte} {rs ts : List (Byte × Byte)} (b : Byte)
    (hbad : u.bad = false) (h : u.wanted = r :: rs) :
    ((u8Step u b).bad = false ∧ (u8Step u b).wanted = ts) ↔ (r.1 ≤ b ∧ b ≤ r.2) ∧ ts = rs := by
  obtain ⟨hpend, rfl, rfl⟩ := Utf8.wanted_eq_cons h
  have hstep : u8Step u b = u8Continue u b := by simp [u8Step, hbad, hpend]
  rw [hstep, u8Continue]
  split_ifs with hrange
  · rw [wanted_u8Want_plain]
    simp [hrange, eq_comm]
  · simp [hrange, u8Bad]

theorem range_of_eq {b c : Byte} (h : b = c) : c ≤ b ∧ b ≤ c :=
  ⟨BitVec.le_of_eq h.symm, BitVec.le_of_eq h⟩

/-- A state that accepts the first byte of a character wants the rest of a row that the byte begins. -/
theorem exists_row_of_u8Start {b : Byte} (h : (u8Start b).bad = false) :
    ∃ r, r :: (u8Start b).wanted ∈ utf8Rows ∧ r.1 ≤ b ∧ b ≤ r.2 := by
  revert h
  fun_cases u8Start b
  case case1 h7F => exact fun _ => ⟨(0x00, 0x7F), by decide, by bv_omega, h7F⟩
  case case2 hDF => exact fun _ => ⟨(0xC2, 0xDF), by decide, hDF⟩
  case case3 hE0 => exact fun _ => ⟨(0xE0, 0xE0), by decide, range_of_eq hE0⟩
  case case4 hEC => exact fun _ => ⟨(0xE1, 0xEC), by decide, hEC⟩
  case case5 hED => exact fun _ => ⟨(0xED, 0xED), by decide, range_of_eq hED⟩
  case case6 hEF => exact fun _ => ⟨(0xEE, 0xEF), by decide, hEF⟩
  case case7 hF0 => exact fun _ => ⟨(0xF0, 0xF0), by decide, range_of_eq hF0⟩
  case case8 hF3 => exact fun _ => ⟨(0xF1, 0xF3), by decide, hF3⟩
  case case9 hF4 => exact fun _ => ⟨(0xF4, 0xF4), by decide, range_of_eq hF4⟩
  case case10 => exact fun hbad => nomatch hbad

/-- The first byte of a row opens a character that wants the rest of that row. -/
theorem u8Start_of_row {r : Byte × Byte} {rs : List (Byte × Byte)} {b : Byte}
    (hrow : r :: rs ∈ utf8Rows) (hb : r.1 ≤ b ∧ b ≤ r.2) :
    (u8Start b).bad = false ∧ (u8Start b).wanted = rs := by
  simp only [utf8Rows, List.mem_cons, List.not_mem_nil, or_false, List.cons.injEq] at hrow
  rcases hrow with h | h | h | h | h | h | h | h | h
  all_goals
    obtain ⟨rfl, rfl⟩ := h
    simp only [u8Start, BitVec.le_def, BitVec.toNat_eq, BitVec.ofNat_eq_ofNat,
      BitVec.toNat_ofNat] at hb ⊢
    simp (disch := omega) only [if_pos, if_neg]
    exact ⟨rfl, rfl⟩

theorem u8Start_iff_row (b : Byte) (rs : List (Byte × Byte)) :
    ((u8Start b).bad = false ∧ (u8Start b).wanted = rs) ↔
      ∃ r, r :: rs ∈ utf8Rows ∧ r.1 ≤ b ∧ b ≤ r.2 := by
  constructor
  · rintro ⟨hbad, rfl⟩
    exact exists_row_of_u8Start hbad
  · rintro ⟨r, hrow, hb⟩
    exact u8Start_of_row hrow hb

/-! ### Sequences -/

/-- The sequence fills the ranges in order and goes on with whole rows of the table. -/
def Completes (rs : List (Byte × Byte)) (bs : List Byte) : Prop :=
  ∃ xs rest, bs = xs ++ rest ∧ matchesRow rs xs ∧ WellFormedUtf8 rest

@[simp] theorem completes_nil_left (bs : List Byte) : Completes [] bs ↔ WellFormedUtf8 bs := by
  simp [Completes, matchesRow]

@[simp] theorem completes_cons_nil (r : Byte × Byte) (rs : List (Byte × Byte)) :
    ¬ Completes (r :: rs) [] := by
  simp [Completes, matchesRow]

@[simp] theorem completes_cons_cons (r : Byte × Byte) (rs : List (Byte × Byte)) (b : Byte)
    (bs : List Byte) : Completes (r :: rs) (b :: bs) ↔ (r.1 ≤ b ∧ b ≤ r.2) ∧ Completes rs bs := by
  constructor
  · rintro ⟨xs, rest, happ, hfits, hrest⟩
    cases hfits with
    | cons hb hfits =>
      obtain ⟨rfl, rfl⟩ := List.cons.inj happ
      exact ⟨hb, _, rest, rfl, hfits, hrest⟩
  · rintro ⟨hb, xs, rest, rfl, hfits, hrest⟩
    exact ⟨b :: xs, rest, rfl, .cons hb hfits, hrest⟩

/-- A well-formed sequence that is not empty begins with the first byte of a row and completes the rest of
it. -/
theorem wellFormedUtf8_cons_iff (b : Byte) (bs : List Byte) : WellFormedUtf8 (b :: bs) ↔
    ∃ rs, (∃ r, r :: rs ∈ utf8Rows ∧ r.1 ≤ b ∧ b ≤ r.2) ∧ Completes rs bs := by
  constructor
  · generalize hcs : b :: bs = cs
    intro h
    cases h with
    | empty => cases hcs
    | char row xs rest mem fits more =>
      cases row with
      | nil => exact absurd mem (by decide)
      | cons r rs =>
        have hcompletes : Completes (r :: rs) (b :: bs) := ⟨xs, rest, hcs, fits, more⟩
        obtain ⟨hb, hrest⟩ := (completes_cons_cons r rs b bs).mp hcompletes
        exact ⟨rs, ⟨r, mem, hb⟩, hrest⟩
  · rintro ⟨rs, ⟨r, hrow, hb⟩, xs, rest, rfl, hfits, hrest⟩
    exact .char (r :: rs) (b :: xs) rest hrow (.cons hb hfits) hrest

/-- The validator accepts from a state exactly the sequences that complete what the state wants. -/
theorem u8Fold_ok_iff (u : Utf8) (bs : List Byte) :
    (u8Fold u bs).ok = true ↔ u.bad = false ∧ Completes u.wanted bs := by
  induction bs generalizing u with
  | nil =>
    rw [u8Fold_nil, Utf8.ok_iff, ← Utf8.wanted_eq_nil_iff]
    cases u.wanted <;> simp [WellFormedUtf8.empty]
  | cons b bs ih =>
    rw [u8Fold_cons, ih]
    cases hbad : u.bad with
    | true => simp [u8Step_of_bad u b hbad, u8Bad]
    | false =>
      suffices h : (∃ ts, ((u8Step u b).bad = false ∧ (u8Step u b).wanted = ts) ∧ Completes ts bs) ↔
          Completes u.wanted (b :: bs) by simpa [and_assoc] using h
      cases hwanted : u.wanted with
      | nil =>
        simp only [u8Step_of_wanted_nil b hbad hwanted, u8Start_iff_row, completes_nil_left,
          wellFormedUtf8_cons_iff]
      | cons r rs =>
        simp only [u8Step_of_wanted_cons b hbad hwanted, completes_cons_cons, and_assoc,
          exists_and_left, exists_eq_left]

/-- Settles O46: from the initial state no range is wanted, so a sequence is accepted exactly when it is
made of whole rows. -/
theorem validatorAcceptsExactlyWellFormedUtf8 : Obligations.ValidatorAcceptsExactlyWellFormedUtf8 := by
  intro bs
  rw [u8Fold_ok_iff, Utf8.wanted_init, completes_nil_left]
  exact and_iff_right rfl

end Sys2Proof.Machine
end

section
/-! PROOFS of 43_commands.md: each command where it is legal and where it is refused. -/

namespace Sys2Proof.Machine

open Sys2Proof.Laws

/-! ### Reserved commands -/

theorem exec_reservedCmd7 (s : State) : exec .reservedCmd7 s = .next (s.onBlock Block.withPerr) := rfl
theorem exec_reservedCmd8F (low : BitVec 3) (s : State) :
    exec (.reservedCmd8F low) s = .next (s.onBlock Block.withPerr) := rfl

/-- 43_commands.md R182: the words from 0x7 up are the reserved opcodes and, from 0x10 on, those with a
nonzero MBZ. -/
theorem exec_decode_reserved_word {data : Word} (s : State) (h : 0x7 ≤ data.toNat) :
    exec (decode (.write 0x04 .four data)) s = .next (s.onBlock Block.withPerr) := by
  have hrange : data.toNat = 0x7 ∨ (0x8 ≤ data.toNat ∧ data.toNat ≤ 0xF) ∨ 0x10 ≤ data.toNat := by
    omega
  rcases hrange with h7 | ⟨hlo, hhi⟩ | hmbz
  · obtain rfl : data = 0x7 := BitVec.eq_of_toNat_eq h7
    exact exec_reservedCmd7 s
  · rw [decode_cmd_8_to_F hlo hhi, exec_reservedCmd8F]
  · rw [decode_cmd_mbz hmbz, exec_reservedCmdMbz]

/-- Settles O18: the three reserved rows are `raise PERR`, and every word from 0x7 up decodes to one of
them. -/
theorem reservedCommandsOnlySetPerr : Obligations.ReservedCommandsOnlySetPerr := fun s low mbz op =>
  ⟨exec_reservedCmd7 s, exec_reservedCmd8F low s, exec_reservedCmdMbz mbz op s,
    fun _ h => exec_decode_reserved_word s h⟩

/-! ### NOP -/

theorem exec_nop (s : State) : exec .nop s = .next s := rfl

/-- Settles O32: 0x10 is one of the reserved words. -/
theorem nopChangesNothing : Obligations.NopChangesNothing :=
  ⟨CodecAgrees.nop rfl, exec_nop, fun s => exec_decode_reserved_word s (by decide)⟩

/-! ### The start commands -/

/-- The block after an accepted GEN: the tag bytes are in the CRC (43_commands.md R174). -/
def startGen (b : Block) : Block := { startSession .gen b with crc := crcFold crcInit (be32 b.tag) }

/-- The block after an accepted PARSE: the host's tag is lost (43_commands.md R175). -/
def startParse (b : Block) : Block := { startSession .parse b with tag := 0x00000000 }

theorem exec_gen_of_closed {s : State} (h : s.blk.st.inSession = false) :
    exec .gen s = .next (s.onBlock startGen) := by
  change runIf (!s.blk.st.inSession) startGen s = _
  rw [h, Bool.not_false, runIf_true]
theorem exec_gen_of_open {s : State} (h : s.blk.st.inSession = true) :
    exec .gen s = .next (s.onBlock Block.withPerr) := by
  change runIf (!s.blk.st.inSession) startGen s = _
  rw [h, Bool.not_true, runIf_false]

theorem exec_parse_of_closed {s : State} (h : s.blk.st.inSession = false) :
    exec .parse s = .next (s.onBlock startParse) := by
  change runIf (!s.blk.st.inSession) startParse s = _
  rw [h, Bool.not_false, runIf_true]
theorem exec_parse_of_open {s : State} (h : s.blk.st.inSession = true) :
    exec .parse s = .next (s.onBlock Block.withPerr) := by
  change runIf (!s.blk.st.inSession) startParse s = _
  rw [h, Bool.not_true, runIf_false]

/-- CRC reads the finished checksum of what the running register has absorbed (41_crc.md R122). -/
theorem busRead_crc (b : Block) : busRead b 0x18 .four = crcFinal b.crc := rfl

/-- The register that has absorbed a message from its initial value reads that message's checksum
(41_crc.md R122). -/
theorem crcFinal_crcFold_crcInit (m : List Byte) : crcFinal (crcFold crcInit m) = crc32 m := rfl

/-- Settles O34: GEN starts where no session is open, and the four steps of the CRC are the fold over the
tag's bytes. -/
theorem genStartsWithTheTagBytes : Obligations.GenStartsWithTheTagBytes := by
  refine ⟨CodecAgrees.gen rfl, fun s => ⟨fun hclosed => ?_, fun hopen => ?_⟩⟩
  · exact ⟨_, exec_gen_of_closed ((Phase.inSession_eq_false _).mpr hclosed), rfl, busRead_crc _⟩
  · exact exec_gen_of_open ((Phase.inSession_eq_true _).mpr hopen)

/-- 10_state.md R32: TAGFLAGS of a cleared TAG is its reset value. -/
theorem tagFlags_zero : tagFlags 0x00000000 = 0x0E := by decide

/-- Settles O35: PARSE starts where no session is open, and leaves the cleared tag. -/
theorem parseStartsWithTheTagCleared : Obligations.ParseStartsWithTheTagCleared := by
  refine ⟨CodecAgrees.parse rfl, fun s => ⟨fun hclosed => ?_, fun hopen => ?_⟩⟩
  · exact ⟨_, exec_parse_of_closed ((Phase.inSession_eq_false _).mpr hclosed), rfl, tagFlags_zero⟩
  · exact exec_parse_of_open ((Phase.inSession_eq_true _).mpr hopen)

/-! ### TEXTCHK -/

theorem exec_textchk_of_validChunk {s : State} (h : s.blk.validChunk = true) :
    exec .textchk s = .next (s.onBlock textCheck) := by
  change runIf s.blk.validChunk textCheck s = _
  rw [h, runIf_true]
theorem exec_textchk_of_not_validChunk {s : State} (h : s.blk.validChunk = false) :
    exec .textchk s = .next (s.onBlock Block.withPerr) := by
  change runIf s.blk.validChunk textCheck s = _
  rw [h, runIf_false]

theorem textCheck_of_ok {b : Block} (h : b.u8.ok = true) : textCheck b = { b with err := .ok } := by
  rw [textCheck, h, if_pos rfl]
theorem textCheck_of_not_ok {b : Block} (h : b.u8.ok = false) :
    textCheck b = { b with err := .notUtf8Text } := by
  rw [textCheck, h, if_neg Bool.false_ne_true]

/-- Settles O41: the statement's condition is the model's valid chunk, and its verdict is UTF8_OK. -/
theorem textchkReportsUtf8OfAValidChunk : Obligations.TextchkReportsUtf8OfAValidChunk := by
  refine ⟨CodecAgrees.textchk rfl, fun s => ?_⟩
  simp only [← Block.validChunk_iff, ← Utf8.ok_iff, Bool.not_eq_true]
  refine ⟨fun hvalid => ⟨fun hok => ?_, fun hbad => ?_⟩, exec_textchk_of_not_validChunk⟩
  · rw [exec_textchk_of_validChunk hvalid, State.onBlock, textCheck_of_ok hok]
  · rw [exec_textchk_of_validChunk hvalid, State.onBlock, textCheck_of_not_ok hbad]

end Sys2Proof.Machine
end

section
/-! PROOFS of 43_commands.md, whole sessions: a run over a session's events is the start, its bytes pushed
and the end; the frame of a chunk falls into its four fields. -/

namespace Sys2Proof.Machine

/-! ### A run over a session -/

/-- A word written at the head of the port, with reset released, runs its decoded operation. -/
theorem step_of_busWord {s : State} {off : Offset} {data : Word} {rest : List Event}
    (hpending : s.pending = busWord off data :: rest) (hheld : s.resetHeld = false) :
    step s = exec (decode (.write off .four data)) { s with pending := rest } := by
  rw [step_of_event hpending]
  simp [busWord, deliver, hheld]

/-- In a session either form of push hands its bytes to the block (42_stream.md R140, R141). -/
theorem step_of_push {s : State} {p : PushOp} {rest : List Event}
    (hpending : s.pending = p.event :: rest) (hheld : s.resetHeld = false)
    (hopen : s.blk.st.inSession = true) :
    step s = .next { s with blk := pushBytes p.bytes s.blk, pending := rest } := by
  have hrun : step s
      = runIf s.blk.st.inSession (pushBytes p.bytes) { s with pending := rest } := by
    cases p with
    | data8 w => rw [step_of_busWord hpending hheld, decode_push8]; rfl
    | data32 w => rw [step_of_busWord hpending hheld, exec_decode_data32]; rfl
  rw [hrun, hopen, runIf_true]
  rfl

theorem pushedBytes_cons (p : PushOp) (ps : List PushOp) :
    pushedBytes (p :: ps) = p.bytes ++ pushedBytes ps := rfl

/-- A run over pushes in a session is the fold of their bytes, whatever the pushes' widths. -/
theorem runSteps_pushes {s : State} {ps : List PushOp} {rest : List Event}
    (hpending : s.pending = ps.map PushOp.event ++ rest) (hheld : s.resetHeld = false)
    (hopen : s.blk.st.inSession = true) :
    runSteps ps.length s
      = .next { s with blk := pushBytes (pushedBytes ps) s.blk, pending := rest } := by
  induction ps generalizing s with
  | nil => subst hpending; rfl
  | cons p ps ih =>
    have hopen' : (pushBytes p.bytes s.blk).st.inSession = true := by
      rw [(pushBytes_keeps p.bytes s.blk).1, hopen]
    rw [List.length_cons, runSteps_succ _ (step_of_push hpending hheld hopen), pushedBytes_cons,
      pushBytes_append]
    exact ih rfl hheld hopen'

theorem exec_finish_of_open {s : State} (h : s.blk.st.inSession = true) :
    exec .finish s = .next (s.onBlock finishSession) := by
  change runIf s.blk.st.inSession finishSession s = _
  rw [h, runIf_true]

/-- The rest of an open session: the bytes pushed, then the end. -/
theorem runSteps_pushes_finish {s : State} {ps : List PushOp} {rest : List Event}
    (hpending : s.pending = ps.map PushOp.event ++ busWord 0x04 0x5 :: rest)
    (hheld : s.resetHeld = false) (hopen : s.blk.st.inSession = true) :
    runSteps (ps.length + 1) s = .next { s with
      blk := finishSession (pushBytes (pushedBytes ps) s.blk), pending := rest } := by
  have hopen' : (pushBytes (pushedBytes ps) s.blk).st.inSession = true := by
    rw [(pushBytes_keeps _ _).1, hopen]
  have hlast := step_of_busWord
    (s := { s with blk := pushBytes (pushedBytes ps) s.blk, pending := busWord 0x04 0x5 :: rest })
    rfl hheld
  rw [runSteps_add ps.length 1 (runSteps_pushes hpending hheld hopen)]
  exact runSteps_succ 0 (hlast.trans (exec_finish_of_open hopen'))

/-- 00_scope.md R12: a session whose start command is accepted and opens one is the start, the bytes
pushed, and the end. -/
theorem runSteps_session {s : State} {startOp : Word} {start : Block → Block} {ps : List PushOp}
    {rest : List Event} (hready : s.ready) (hpending : s.pending = session startOp ps ++ rest)
    (hstart : ∀ u : State, u.blk.st.inSession = false →
      exec (decode (.write 0x04 .four startOp)) u = .next (u.onBlock start))
    (hopen : (start s.blk).st.inSession = true) :
    runSteps (ps.length + 2) s = .next { s with
      blk := finishSession (pushBytes (pushedBytes ps) (start s.blk)), pending := rest } := by
  obtain ⟨hheld, hclosed⟩ := hready
  have hpending' : s.pending
      = busWord 0x04 startOp :: (ps.map PushOp.event ++ busWord 0x04 0x5 :: rest) := by
    simp [hpending, session]
  have hfirst := (step_of_busWord hpending' hheld).trans
    (hstart _ ((Phase.inSession_eq_false _).mpr hclosed))
  rw [runSteps_succ (ps.length + 1) hfirst]
  exact runSteps_pushes_finish rfl hheld hopen

/-! ### The bytes of a GEN session -/

/-- A byte counted before the others (42_stream.md R149). -/
theorem count_add_length_cons (c : Count) (x : Byte) (xs : List Byte) :
    c + BitVec.ofNat 64 (x :: xs).length = c + 1 + BitVec.ofNat 64 xs.length := by
  rw [List.length_cons, Nat.add_comm, BitVec.ofNat_add, BitVec.add_assoc]
  rfl

/-- 42_stream.md R148: bytes pushed in GEN or RAW go to the CRC and the validator, in order. -/
theorem pushBytes_of_gen_or_raw (xs : List Byte) {b : Block} (h : b.st = .gen ∨ b.st = .raw) :
    pushBytes xs b = { b with
      crc := crcFold b.crc xs, u8 := u8Fold b.u8 xs, count := b.count + BitVec.ofNat 64 xs.length } := by
  induction xs generalizing b with
  | nil => simp
  | cons x xs ih =>
    rw [pushBytes_cons, ih (by rwa [pushByte_st]), pushByte_of_gen_or_raw x b h,
      count_add_length_cons, crcFold_cons, u8Fold_cons]

/-- 41_crc.md R124: in a GEN session the CRC has absorbed the tag's bytes and the payload. -/
theorem pushBytes_startGen (payload : List Byte) (b : Block) :
    pushBytes payload (startGen b) = { startSession .gen b with
      crc := crcFold crcInit (be32 b.tag ++ payload)
      u8 := u8Fold Utf8.init payload
      count := BitVec.ofNat 64 payload.length } := by
  rw [pushBytes_of_gen_or_raw payload (.inl rfl)]
  simp [startGen, crcFold_append]

/-- 43_commands.md R178: the chunk a GEN session computes from the held tag and its payload. -/
theorem genSession_result (payload : List Byte) (b : Block) (hlen : payload.length < 2 ^ 64) :
    finishSession (pushBytes payload (startGen b)) = { b with
      st := .done
      err := if 0xFFFFFFFF < payload.length then .lengthOverflow else .ok
      lastop := .gen
      length := BitVec.ofNat 32 payload.length
      rxcrc := 0
      count := BitVec.ofNat 64 payload.length
      crc := crcFold crcInit (be32 b.tag ++ payload)
      u8 := u8Fold Utf8.init payload } := by
  have hcount : (BitVec.ofNat 64 payload.length).toNat = payload.length := Nat.mod_eq_of_lt hlen
  have hlength : (BitVec.ofNat 64 payload.length).extractLsb' 0 32 = BitVec.ofNat 32 payload.length := by
    rw [← BitVec.setWidth_eq_extractLsb' (by decide), BitVec.setWidth_ofNat_of_le (by decide)]
  rw [pushBytes_startGen]
  change endSession .gen (finishGen _) = _
  rw [finishGen, hcount, hlength]
  rfl

/-! ### The bytes of a PARSE session -/

/-- What bytes that all lie in one field of the frame contribute (42_stream.md R143 to R147). -/
def pushFieldBytes (f : FrameField) (xs : List Byte) (b : Block) : Block :=
  match f with
  | .length => { b with length := xs.foldl shiftIn b.length }
  | .tag => { b with tag := xs.foldl shiftIn b.tag, crc := crcFold b.crc xs }
  | .payload => { b with crc := crcFold b.crc xs, u8 := u8Fold b.u8 xs }
  | .checksum => { b with rxcrc := xs.foldl shiftIn b.rxcrc }
  | .excess => b

theorem pushFieldBytes_nil (f : FrameField) (b : Block) : pushFieldBytes f [] b = b := by
  cases f <;> rfl
theorem pushFieldBytes_cons (f : FrameField) (x : Byte) (xs : List Byte) (b : Block) :
    pushFieldBytes f (x :: xs) b = pushFieldBytes f xs (pushInField f x b) := by
  cases f <;> rfl

theorem fieldAt_eq_length_iff (i len : Nat) : fieldAt i len = .length ↔ i < 4 := by
  unfold fieldAt
  split_ifs with h <;> simp [h]

/-- A byte leaves every later offset of its own field in that field (42_stream.md R153). -/
theorem fieldAt_pushInField {f : FrameField} {i : Nat} {b : Block} (x : Byte)
    (h : fieldAt i b.length.toNat = f) : fieldAt i (pushInField f x b).length.toNat = f := by
  cases f
  case length => rwa [fieldAt_eq_length_iff] at h ⊢
  all_goals exact h

/-- 42_stream.md R142: bytes of PARSE whose frame offsets, from `n` on, all lie in one field contribute to
that field alone. -/
theorem pushBytes_of_parse {f : FrameField} (n : Nat) (xs : List Byte) {b : Block} (hst : b.st = .parse)
    (hcount : b.count = BitVec.ofNat 64 n) (hwrap : n + xs.length < 2 ^ 64)
    (hfield : ∀ i, n ≤ i → i < n + xs.length → fieldAt i b.length.toNat = f) :
    pushBytes xs b
      = { pushFieldBytes f xs b with count := BitVec.ofNat 64 (n + xs.length) } := by
  induction xs generalizing b n with
  | nil => cases f <;> simp [pushFieldBytes_nil, ← hcount]
  | cons x xs ih =>
    rw [List.length_cons] at hwrap hfield
    have hn : b.count.toNat = n := by rw [hcount]; exact Nat.mod_eq_of_lt (by omega)
    have hx : pushByte x b = { pushInField f x b with count := b.count + 1 } := by
      rw [pushByte_of_parse x b hst, hn, hfield n le_rfl (by omega)]
    have hshift : n + 1 + xs.length = n + (xs.length + 1) := by omega
    rw [pushBytes_cons, ih (n + 1) (by rwa [pushByte_st]), pushFieldBytes_cons, hx, List.length_cons,
      hshift]
    · cases f <;> rfl
    · rw [pushByte_count, hcount, BitVec.ofNat_add]; rfl
    · omega
    · intro i hlo hhi
      rw [hx]
      exact fieldAt_pushInField x (hfield i (by omega) (by omega))

/-- 42_stream.md R143: offsets 0 to 3. -/
theorem pushBytes_length_field {n : Nat} {xs : List Byte} {b : Block} (hst : b.st = .parse)
    (hcount : b.count = BitVec.ofNat 64 n) (hhi : n + xs.length ≤ 4) :
    pushBytes xs b
      = { b with length := xs.foldl shiftIn b.length, count := BitVec.ofNat 64 (n + xs.length) } :=
  pushBytes_of_parse n xs hst hcount (by omega) fun _ _ h => fieldAt_length (by omega)

/-- 42_stream.md R144: offsets 4 to 7. -/
theorem pushBytes_tag_field {n : Nat} {xs : List Byte} {b : Block} (hst : b.st = .parse)
    (hcount : b.count = BitVec.ofNat 64 n) (hlo : 4 ≤ n) (hhi : n + xs.length ≤ 8) :
    pushBytes xs b = { b with
      tag := xs.foldl shiftIn b.tag, crc := crcFold b.crc xs,
      count := BitVec.ofNat 64 (n + xs.length) } :=
  pushBytes_of_parse n xs hst hcount (by omega) fun _ _ _ => fieldAt_tag (by omega) (by omega)

/-- 42_stream.md R145: the declared number of offsets from 8 on. -/
theorem pushBytes_payload_field {n : Nat} {xs : List Byte} {b : Block} (hst : b.st = .parse)
    (hcount : b.count = BitVec.ofNat 64 n) (hlo : 8 ≤ n)
    (hhi : n + xs.length ≤ 8 + b.length.toNat) :
    pushBytes xs b = { b with
      crc := crcFold b.crc xs, u8 := u8Fold b.u8 xs, count := BitVec.ofNat 64 (n + xs.length) } :=
  pushBytes_of_parse n xs hst hcount (by omega) fun _ _ _ => fieldAt_payload (by omega) (by omega)

/-- 42_stream.md R146: the four offsets behind the declared payload. -/
theorem pushBytes_checksum_field {n : Nat} {xs : List Byte} {b : Block} (hst : b.st = .parse)
    (hcount : b.count = BitVec.ofNat 64 n) (hlo : 8 + b.length.toNat ≤ n)
    (hhi : n + xs.length ≤ 12 + b.length.toNat) :
    pushBytes xs b
      = { b with rxcrc := xs.foldl shiftIn b.rxcrc, count := BitVec.ofNat 64 (n + xs.length) } :=
  pushBytes_of_parse n xs hst hcount (by omega) fun _ _ _ => fieldAt_checksum (by omega) (by omega)

/-- Shifting bytes into a cleared register leaves the big-endian number they stand for, modulo 2^32. -/
theorem foldl_shiftIn_zero (bs : List Byte) : bs.foldl shiftIn 0 = BitVec.ofNat 32 (bigEndian bs) := by
  induction bs using List.reverseRecOn with
  | nil => rfl
  | append_singleton bs b ih =>
    rw [List.foldl_append, ih, List.foldl_cons, List.foldl_nil, shiftIn_eq, bigEndian_concat]
    apply BitVec.eq_of_toNat_eq
    simp only [BitVec.toNat_ofNat]
    omega

theorem bigEndian_be32 (w : Word) : bigEndian (be32 w) = w.toNat := by
  have hw := w.isLt
  simp only [be32, bigEndian, List.foldl_cons, List.foldl_nil, wordByte_toNat]
  omega

theorem foldl_shiftIn_be32 (w : Word) : (be32 w).foldl shiftIn 0 = w := by
  rw [foldl_shiftIn_zero, bigEndian_be32, BitVec.ofNat_toNat, BitVec.setWidth_eq]

/-! ### A frame through PARSE -/

/-- A field of four bytes is a word (30_encoding.md R86). -/
theorem be32_length (w : Word) : (be32 w).length = 4 := rfl

/-- 42_stream.md R143 to R147: the frame of a payload leaves each of its fields in its register. -/
theorem pushBytes_frame {len : Word} {payload : List Byte} (tag checksum : Word) (b : Block)
    (hlen : len.toNat = payload.length) :
    pushBytes (frame len tag payload checksum) (startParse b) = { startParse b with
      length := len
      tag := tag
      rxcrc := checksum
      count := BitVec.ofNat 64 (12 + payload.length)
      crc := crcFold crcInit (be32 tag ++ payload)
      u8 := u8Fold Utf8.init payload } := by
  have hheader : pushBytes (be32 len ++ be32 tag) (startParse b) = { startParse b with
      length := len, tag := tag, count := BitVec.ofNat 64 8, crc := crcFold crcInit (be32 tag) } := by
    rw [pushBytes_append, pushBytes_length_field (n := 0) (xs := be32 len) rfl rfl le_rfl,
      pushBytes_tag_field (n := 4) (xs := be32 tag) rfl rfl le_rfl le_rfl, startParse, startSession]
    simp only [foldl_shiftIn_be32, be32_length]
  rw [frame, pushBytes_append, pushBytes_append, hheader,
    pushBytes_payload_field (n := 8) (xs := payload) rfl rfl le_rfl (Nat.add_le_add_left hlen.ge 8),
    pushBytes_checksum_field (n := 8 + payload.length) rfl rfl (Nat.add_le_add_left hlen.le 8)
      (by change 8 + payload.length + 4 ≤ 12 + len.toNat; omega), startParse, startSession]
  simp only [foldl_shiftIn_be32, be32_length, crcFold_append, Nat.add_right_comm]

/-- 43_commands.md R179: where COUNT fits LENGTH and CRC reads RXCRC, only the check of the tag can fail. -/
theorem parseVerdict_of_agreement {b : Block} (hcount : b.count.toNat = 12 + b.length.toNat)
    (hcrc : crcFinal b.crc = b.rxcrc) :
    parseVerdict b = if tagValid b.tag then .ok else .invalidTag := by
  have hlong : ¬ b.count.toNat < 12 := by omega
  rw [parseVerdict, if_neg hlong, if_neg (not_not.mpr hcount), if_neg (not_not.mpr hcrc)]
  cases tagValid b.tag <;> rfl

/-- 43_commands.md R179: the chunk a PARSE session leaves of a frame whose length and checksum are those of
its tag and payload. -/
theorem parseSession_result {len : Word} {payload : List Byte} (tag : Word) (b : Block)
    (hlen : len.toNat = payload.length) :
    finishSession (pushBytes (frame len tag payload (crc32 (be32 tag ++ payload))) (startParse b))
      = { b with
        st := .done
        err := if tagValid tag then .ok else .invalidTag
        lastop := .parse
        tag := tag
        length := len
        rxcrc := crc32 (be32 tag ++ payload)
        count := BitVec.ofNat 64 (12 + payload.length)
        crc := crcFold crcInit (be32 tag ++ payload)
        u8 := u8Fold Utf8.init payload } := by
  have hcount : (BitVec.ofNat 64 (12 + payload.length)).toNat = 12 + payload.length :=
    Nat.mod_eq_of_lt (by have := len.isLt; omega)
  rw [pushBytes_frame tag _ b hlen]
  change endSession .parse (finishParse _) = _
  rw [finishParse, parseVerdict_of_agreement (by rw [hcount, hlen]) (crcFinal_crcFold_crcInit _)]
  rfl

/-! ### The round trip -/

theorem encodeChunk_eq (b : Block) (payload : List Byte) :
    encodeChunk b payload = frame b.length b.tag payload (crcFinal b.crc) := rfl

/-- 43_commands.md R174, R178: a GEN session, run. -/
theorem runSteps_genSession {s : State} {ps : List PushOp} {rest : List Event} (hready : s.ready)
    (hpending : s.pending = session 0x2 ps ++ rest) :
    runSteps (ps.length + 2) s = .next { s with
      blk := finishSession (pushBytes (pushedBytes ps) (startGen s.blk)), pending := rest } :=
  runSteps_session hready hpending (fun _ h => exec_gen_of_closed h) rfl

/-- 43_commands.md R175, R179: a PARSE session, run. -/
theorem runSteps_parseSession {s : State} {ps : List PushOp} {rest : List Event} (hready : s.ready)
    (hpending : s.pending = session 0x3 ps ++ rest) :
    runSteps (ps.length + 2) s = .next { s with
      blk := finishSession (pushBytes (pushedBytes ps) (startParse s.blk)), pending := rest } :=
  runSteps_session hready hpending (fun _ h => exec_parse_of_closed h) rfl

/-- 40_tag.md R106: a TAG write outside a session leaves none open, and the tag in place. -/
theorem writeTag_tag (data : Word) (b : Block) : (writeTag data b).tag = data := by
  by_cases hdone : b.st = .done
  · rw [writeTag_of_done data hdone]
  · rw [writeTag_of_not_done data hdone]
theorem inSession_writeTag {data : Word} {b : Block} (h : b.st.inSession = false) :
    (writeTag data b).st.inSession = false := by
  by_cases hdone : b.st = .done
  · rw [writeTag_of_done data hdone]; rfl
  · rwa [writeTag_of_not_done data hdone]

/-- Settles O52. GEN leaves LENGTH, TAG and CRC of the payload, so the emitted frame is the one whose checks
can only fail on the tag. -/
theorem encodeThenDecodeGivesTheChunkBack : Obligations.EncodeThenDecodeGivesTheChunkBack := by
  intro s tag ps hready hpending hlen
  obtain ⟨hheld, hclosed⟩ := hready
  have hclosed' := (Phase.inSession_eq_false _).mpr hclosed
  have htagw : step s = .next { s with blk := writeTag tag s.blk, pending := session 0x2 ps } :=
    (step_of_busWord hpending hheld).trans (exec_decode_tag_of_closed tag hclosed')
  have hgen := runSteps_genSession
    (s := { s with blk := writeTag tag s.blk, pending := session 0x2 ps }) (rest := [])
    ⟨hheld, (Phase.inSession_eq_false _).mp (inSession_writeTag hclosed')⟩ (List.append_nil _).symm
  rw [genSession_result _ _ (by omega), writeTag_tag, if_neg (by omega)] at hgen
  refine ⟨_, (runSteps_succ _ htagw).trans hgen, rfl, rfl, rfl, fun qs hqs => ?_⟩
  have hwordlen : (BitVec.ofNat 32 (pushedBytes ps).length).toNat = (pushedBytes ps).length :=
    Nat.mod_eq_of_lt hlen
  rw [encodeChunk_eq, crcFinal_crcFold_crcInit] at hqs
  refine ⟨_, runSteps_parseSession ⟨hheld, .inr rfl⟩ (List.append_nil _).symm, ?_⟩
  rw [hqs, parseSession_result _ _ hwordlen]
  refine ⟨rfl, rfl, fun hinvalid => ?_, fun hvalid => ⟨?_, rfl, rfl, rfl, rfl, rfl⟩⟩
  · rw [hinvalid]; rfl
  · rw [hvalid]; rfl

end Sys2Proof.Machine
end

section
/-! PROOFS of 60_exceptions.md: an operation is refused exactly where its legality condition fails, and one
that runs leaves PERR to ABORT. -/

namespace Sys2Proof.Machine

/-! ### What runs leaves PERR alone -/

/-- A result code never changes PERR (60_exceptions.md R204). -/
@[simp] theorem finishSession_perr (b : Block) : (finishSession b).perr = b.perr := by
  unfold finishSession
  split <;> rfl
@[simp] theorem textCheck_perr (b : Block) : (textCheck b).perr = b.perr := rfl

@[simp] theorem writeTag_perr (data : Word) (b : Block) : (writeTag data b).perr = b.perr := by
  unfold writeTag
  split <;> rfl

@[simp] theorem pushBytes_perr (xs : List Byte) (b : Block) : (pushBytes xs b).perr = b.perr := by
  obtain ⟨-, -, -, hperr⟩ := pushBytes_keeps xs b
  exact hperr

/-! ### Where the legality conditions fail -/

/-- A start command and a TAG write are illegal in a session (43_commands.md R170, 40_tag.md R106). -/
theorem Phase.not_inSession_eq_false (p : Phase) :
    (!p.inSession) = false ↔ p = .gen ∨ p = .parse ∨ p = .raw := by
  rw [Bool.not_eq_false', Phase.inSession_eq_true]

theorem Block.validChunk_eq_false (b : Block) : b.validChunk = false ↔
    ¬ (b.st = .done ∧ (b.lastop = .gen ∨ b.lastop = .parse) ∧ (b.err = .ok ∨ b.err = .notUtf8Text)) := by
  rw [← Block.validChunk_iff, Bool.not_eq_true]

/-! ### Every operation is refused or runs -/

/-- The outcome at `s` is `raise PERR` under the condition and, everywhere else, a next state with the same
PERR. -/
def RefusedExactlyIf (refused : Prop) (s : State) (o : Host.Outcome State Fault Refusal) : Prop :=
  (refused → o = .next (s.onBlock Block.withPerr)) ∧
    (¬ refused → ∃ t, o = .next t ∧ t.blk.perr = s.blk.perr)

theorem refusedExactlyIf_raisePerr (s : State) : RefusedExactlyIf True s (raisePerr s) :=
  ⟨fun _ => raisePerr_eq s, fun h => absurd trivial h⟩

theorem refusedExactlyIf_next {s t : State} (hperr : t.blk.perr = s.blk.perr) :
    RefusedExactlyIf False s (.next t) :=
  ⟨False.elim, fun _ => ⟨t, rfl, hperr⟩⟩

/-- An operation with a legality condition is refused exactly where the condition fails. -/
theorem refusedExactlyIf_runIf {legal : Bool} {refused : Prop} {f : Block → Block} {s : State}
    (hlegal : legal = false ↔ refused) (hperr : (f s.blk).perr = s.blk.perr) :
    RefusedExactlyIf refused s (runIf legal f s) := by
  rcases runIf_cases legal f s with ⟨hlegal', hrun⟩ | ⟨hlegal', hrun⟩
  · have haccepted : ¬ refused := fun h => by simp [hlegal.mpr h] at hlegal'
    exact ⟨fun h => absurd h haccepted, fun _ => ⟨_, hrun, hperr⟩⟩
  · exact ⟨fun _ => hrun, fun h => absurd (hlegal.mp hlegal') h⟩

/-- 60_exceptions.md R203, operation by operation. -/
theorem exec_refusedExactlyIf {i : Instr} (s : State) (hi : i ≠ .abort) :
    RefusedExactlyIf (refusedIn i s.blk) s (exec i s) := by
  cases i with
  | abort => exact absurd rfl hi
  | nop => exact refusedExactlyIf_next rfl
  | rd off size => exact refusedExactlyIf_next rfl
  | reservedCmd7 => exact refusedExactlyIf_raisePerr s
  | reservedCmd8F low => exact refusedExactlyIf_raisePerr s
  | reservedCmdMbz mbz op => exact refusedExactlyIf_raisePerr s
  | wrRefused off data => exact refusedExactlyIf_raisePerr s
  | wrNarrowOrMisaligned off size data => exact refusedExactlyIf_raisePerr s
  | gen => exact refusedExactlyIf_runIf (Phase.not_inSession_eq_false _) rfl
  | parse => exact refusedExactlyIf_runIf (Phase.not_inSession_eq_false _) rfl
  | raw => exact refusedExactlyIf_runIf (Phase.not_inSession_eq_false _) rfl
  | tagw b0 b1 b2 b3 =>
    exact refusedExactlyIf_runIf (Phase.not_inSession_eq_false _) (writeTag_perr _ _)
  | finish => exact refusedExactlyIf_runIf (Phase.inSession_eq_false _) (finishSession_perr _)
  | push8 ign b => exact refusedExactlyIf_runIf (Phase.inSession_eq_false _) (pushByte_perr _ _)
  | push32 b0 b1 b2 b3 =>
    exact refusedExactlyIf_runIf (Phase.inSession_eq_false _) (pushBytes_perr _ _)
  | textchk => exact refusedExactlyIf_runIf (Block.validChunk_eq_false _) (textCheck_perr _)

/-- Settles O20: ABORT is never refused and clears PERR; every other operation is refused exactly under its
condition in the list. -/
theorem refusedAccessesAreExactlyTheListed : Obligations.RefusedAccessesAreExactlyTheListed := by
  intro i s
  by_cases hi : i = .abort
  · subst hi
    exact ⟨False.elim, fun _ => ⟨_, rfl, fun hne => absurd rfl hne, fun _ => rfl⟩⟩
  · obtain ⟨hrefused, haccepted⟩ := exec_refusedExactlyIf s hi
    refine ⟨hrefused, fun h => ?_⟩
    obtain ⟨t, hrun, hperr⟩ := haccepted h
    exact ⟨t, hrun, fun _ => hperr, fun habort => absurd habort hi⟩

end Sys2Proof.Machine
end

section
/-! PROOFS of 30_encoding.md: decoding and encoding undo each other, and the host's helpers push the bytes
they are given. -/

namespace Sys2Proof.Machine

open Sys2Proof.Laws

/-! ### The codec -/

/-- Settles O1, operation by operation. -/
theorem decodeOfEncodeGivesTheOperation : Obligations.DecodeOfEncodeGivesTheOperation := by
  intro i
  cases i with
  | nop => exact CodecAgrees.nop
  | abort => exact CodecAgrees.abort
  | gen => exact CodecAgrees.gen
  | parse => exact CodecAgrees.parse
  | raw => exact CodecAgrees.raw
  | finish => exact CodecAgrees.finish
  | textchk => exact CodecAgrees.textchk
  | reservedCmd7 => exact CodecAgrees.reservedCmd7
  | reservedCmd8F low => exact CodecAgrees.reservedCmd8F low
  | reservedCmdMbz mbz op => exact CodecAgrees.reservedCmdMbz mbz op
  | tagw b0 b1 b2 b3 => exact CodecAgrees.tagw b0 b1 b2 b3
  | push8 ign b => exact CodecAgrees.push8 ign b
  | push32 b0 b1 b2 b3 => exact CodecAgrees.push32 b0 b1 b2 b3
  | wrRefused off data => exact CodecAgrees.wrRefused off data
  | wrNarrowOrMisaligned off size data => exact CodecAgrees.wrNarrowOrMisaligned off size data
  | rd off size => exact CodecAgrees.rd off size

/-- The access encodes the well-formed operation. -/
def IsEncodingOf (i : Instr) (op : BusOp) : Prop := i.wf = true ∧ encode i = op

/-- An access that encodes some well-formed operation decodes to it: decoding undoes encoding. -/
theorem IsEncodingOf.decode_eq {i : Instr} {op : BusOp} (h : IsEncodingOf i op) : decode op = i := by
  obtain ⟨hwf, rfl⟩ := h
  exact decodeOfEncodeGivesTheOperation i hwf

/-- 30_encoding.md R81: the sixteen opcodes, one by one. -/
theorem isEncodingOf_decodeCmd_cmdWord :
    ∀ op : BitVec 4, IsEncodingOf (decodeCmd (cmdWord op)) (.write 0x04 .four (cmdWord op)) := by
  unfold IsEncodingOf
  decide

/-- 30_encoding.md R81: every CMD word has an operation, its MBZ zero or not. -/
theorem exists_isEncodingOf_cmd (data : Word) : ∃ i, IsEncodingOf i (.write 0x04 .four data) := by
  by_cases hsmall : data.toNat < 16
  · have hword : cmdWord (BitVec.ofNat 4 data.toNat) = data := by
      apply BitVec.eq_of_toNat_eq
      simp only [cmdWord, BitVec.toNat_setWidth, BitVec.toNat_ofNat]
      omega
    exact ⟨_, hword ▸ isEncodingOf_decodeCmd_cmdWord _⟩
  · exact ⟨.reservedCmdMbz _ _, bne_iff_ne.mpr (mbz_ne_zero (Nat.le_of_not_lt hsmall)),
      congrArg (BusOp.write 0x04 .four) (eq_mbz_append_op data).symm⟩

/-- 30_encoding.md R88: every access has an operation. -/
theorem exists_isEncodingOf (op : BusOp) : ∃ i, IsEncodingOf i op := by
  cases op with
  | read off size => exact ⟨.rd off size, rfl, rfl⟩
  | write off size data =>
    cases hword : isWordAccess off size with
    | false => exact ⟨.wrNarrowOrMisaligned off size data, by simp [Instr.wf, hword], rfl⟩
    | true =>
      obtain ⟨rfl, haligned⟩ := (isWordAccess_iff off size).mp hword
      rcases aligned_slot_cases off haligned with hrefused | rfl | rfl | rfl | rfl
      · exact ⟨.wrRefused off data, by simpa [Instr.wf] using hrefused, rfl⟩
      · exact exists_isEncodingOf_cmd data
      · exact ⟨.tagw _ _ _ _, rfl, congrArg (BusOp.write 0x0C .four) (wordOfBytes_wordByte data)⟩
      · exact ⟨.push8 _ _, rfl, congrArg (BusOp.write 0x20 .four) (push8_fields_append data)⟩
      · exact ⟨.push32 _ _ _ _, rfl, congrArg (BusOp.write 0x24 .four) (wordOfBytes_wordByte data)⟩

/-- Settles O2: an access encodes some well-formed operation, and by O1 that is the one it decodes to. -/
theorem everyAccessIsOneOperation : Obligations.EveryAccessIsOneOperation := by
  intro op
  obtain ⟨i, hi⟩ := exists_isEncodingOf op
  rw [hi.decode_eq]
  exact hi

/-- Settles O3: the decoder runs on the nine words. -/
theorem sampleAccessesDecode : Obligations.SampleAccessesDecode := by
  unfold Obligations.SampleAccessesDecode
  decide

/-! ### The host's helpers -/

theorem data8_bytes_setWidth (b : Byte) : (PushOp.data8 (b.setWidth 32)).bytes = [b] :=
  congrArg (fun x => [x]) (extract_byte_setWidth b)

/-- A DATA32 push hands over the bytes of its word, most significant first (10_state.md R37). -/
theorem data32_bytes (w : Word) : (PushOp.data32 w).bytes = be32 w := rfl

/-- The pushes of `pushstr`: a DATA32 push of each full group of four bytes, then a DATA8 push of each byte
left over (30_encoding.md R90). -/
def strPushes : List Byte → List PushOp
  | b0 :: b1 :: b2 :: b3 :: rest => .data32 (wordOfBytes b0 b1 b2 b3) :: strPushes rest
  | rest => rest.map fun b => .data8 (b.setWidth 32)

theorem assemble_pushstr (text : List Byte) :
    assemble [.pushstr text] = (strPushes text).map PushOp.event := by
  change (expandStr text ++ []).map Event.access = _
  rw [List.append_nil]
  fun_induction strPushes text with
  | case1 b0 b1 b2 b3 rest ih => rw [expandStr, List.map_cons, List.map_cons, ih]; rfl
  | case2 rest hshort =>
    rw [expandStr, List.map_map, List.map_map]
    · rfl
    · exact hshort

theorem pushedBytes_map_data8 (bs : List Byte) :
    pushedBytes (bs.map fun b => .data8 (b.setWidth 32)) = bs := by
  induction bs with
  | nil => rfl
  | cons b bs ih => rw [List.map_cons, pushedBytes_cons, data8_bytes_setWidth, ih]; rfl

theorem pushedBytes_strPushes (text : List Byte) : pushedBytes (strPushes text) = text := by
  fun_induction strPushes text with
  | case1 b0 b1 b2 b3 rest ih => rw [pushedBytes_cons, data32_bytes, be32_wordOfBytes, ih]; rfl
  | case2 rest hshort => exact pushedBytes_map_data8 rest

theorem strPushes_length (text : List Byte) :
    (strPushes text).length = text.length / 4 + text.length % 4 := by
  fun_induction strPushes text with
  | case1 b0 b1 b2 b3 rest ih =>
    simp only [List.length_cons, ih]
    omega
  | case2 rest hshort =>
    have hlen : rest.length < 4 := by
      match rest, hshort with
      | [], _ => decide
      | [_], _ => simp
      | [_, _], _ => simp
      | [_, _, _], _ => simp
      | b0 :: b1 :: b2 :: b3 :: rest, h => exact absurd rfl (h b0 b1 b2 b3 rest)
    rw [List.length_map]
    omega

/-- Settles O53, along the groups of four of the expansion. -/
theorem pushstrPushesTheText : Obligations.PushstrPushesTheText := fun text =>
  ⟨strPushes text, assemble_pushstr text, pushedBytes_strPushes text, strPushes_length text⟩

/-- Swapping the bytes of a little-endian load puts them in their order in memory (20_memory.md R66). -/
theorem byteSwap_littleEndianLoad (b0 b1 b2 b3 : Byte) :
    byteSwap (littleEndianLoad b0 b1 b2 b3) = wordOfBytes b0 b1 b2 b3 := by
  obtain ⟨h0, h1, h2, h3⟩ := wordByte_wordOfBytes b3 b2 b1 b0
  rw [byteSwap, littleEndianLoad, h0, h1, h2, h3]

/-- Settles O54: a word pushes its bytes most significant first, and the swap reverses them. -/
theorem littleEndianHostSwapsBytes : Obligations.LittleEndianHostSwapsBytes := by
  refine ⟨fun b0 b1 b2 b3 => ⟨?_, ?_⟩, by decide, by decide⟩
  · rw [data32_bytes, byteSwap_littleEndianLoad, be32_wordOfBytes]
  · rw [data32_bytes, littleEndianLoad, be32_wordOfBytes]

end Sys2Proof.Machine
end

section
/-! PROOFS of 60_exceptions.md and 10_state.md, whole operations: what an operation and a step can do to the
block, and who may write each element. -/

namespace Sys2Proof.Machine

/-! ### What an operation can do to the block -/

/-- Both pushes hand at most four bytes to an open session and are refused outside one (42_stream.md R140,
R141). -/
theorem exec_of_isPush {i : Instr} (h : isPush i) : ∃ xs : List Byte, xs.length ≤ 4 ∧
    ∀ s : State, exec i s = runIf s.blk.st.inSession (pushBytes xs) s := by
  rcases h with ⟨ign, b, rfl⟩ | ⟨b0, b1, b2, b3, rfl⟩
  · exact ⟨[b], by simp, fun _ => rfl⟩
  · exact ⟨[b0, b1, b2, b3], by simp, fun _ => rfl⟩

/-- The block an operation can lead to: unchanged, refused, or by one of the accepted forms, each where it
is legal. -/
inductive BlockStep : Instr → Block → Block → Prop where
  | keep (i : Instr) (b : Block) : BlockStep i b b
  | refused (i : Instr) (b : Block) : BlockStep i b b.withPerr
  | abort (b : Block) : BlockStep .abort b { b.toIdle with perr := false }
  | gen (b : Block) : BlockStep .gen b (startGen b)
  | parse (b : Block) : BlockStep .parse b (startParse b)
  | raw (b : Block) : BlockStep .raw b (startSession .raw b)
  | finishInGen {b : Block} (hst : b.st = .gen) : BlockStep .finish b (endSession .gen (finishGen b))
  | finishInParse {b : Block} (hst : b.st = .parse) :
      BlockStep .finish b (endSession .parse (finishParse b))
  | finishInRaw {b : Block} (hst : b.st = .raw) : BlockStep .finish b (endSession .raw (finishRaw b))
  | textchk {b : Block} (hvalid : b.validChunk = true) : BlockStep .textchk b (textCheck b)
  | tagInIdle {i : Instr} {b : Block} (htag : isTagWrite i) (hst : b.st = .idle) (data : Word) :
      BlockStep i b { b with tag := data }
  | tagInDone {i : Instr} {b : Block} (htag : isTagWrite i) (hst : b.st = .done) (data : Word) :
      BlockStep i b { b with tag := data, st := .idle, err := .ok, lastop := .none }
  | push {i : Instr} {b : Block} (hpush : isPush i) (hopen : b.st.inSession = true) (xs : List Byte) :
      BlockStep i b (pushBytes xs b)

theorem finishSession_of_gen {b : Block} (h : b.st = .gen) :
    finishSession b = endSession .gen (finishGen b) := by simp [finishSession, h]
theorem finishSession_of_parse {b : Block} (h : b.st = .parse) :
    finishSession b = endSession .parse (finishParse b) := by simp [finishSession, h]
theorem finishSession_of_raw {b : Block} (h : b.st = .raw) :
    finishSession b = endSession .raw (finishRaw b) := by simp [finishSession, h]

theorem blockStep_finishSession {b : Block} (h : b.st.inSession = true) :
    BlockStep .finish b (finishSession b) := by
  rcases (Phase.inSession_eq_true _).mp h with hst | hst | hst
  · exact finishSession_of_gen hst ▸ .finishInGen hst
  · exact finishSession_of_parse hst ▸ .finishInParse hst
  · exact finishSession_of_raw hst ▸ .finishInRaw hst

theorem blockStep_writeTag {i : Instr} {b : Block} (htag : isTagWrite i) (h : b.st.inSession = false)
    (data : Word) : BlockStep i b (writeTag data b) := by
  rcases (Phase.inSession_eq_false _).mp h with hst | hst
  · rw [writeTag_of_not_done data (by simp [hst])]
    exact .tagInIdle htag hst data
  · rw [writeTag_of_done data hst]
    exact .tagInDone htag hst data

/-- An operation with a legality condition leads where its accepted form leads, or is refused. -/
theorem blockStep_of_runIf {i : Instr} {legal : Bool} {f : Block → Block} {s t : State}
    (hrun : runIf legal f s = .next t) (haccepted : legal = true → BlockStep i s.blk (f s.blk)) :
    BlockStep i s.blk t.blk := by
  rcases runIf_cases legal f s with ⟨hlegal, h⟩ | ⟨-, h⟩
  · obtain rfl := Host.Outcome.next.inj (h ▸ hrun)
    exact haccepted hlegal
  · obtain rfl := Host.Outcome.next.inj (h ▸ hrun)
    exact .refused i s.blk

theorem blockStep_of_raisePerr {i : Instr} {s t : State} (hrun : raisePerr s = .next t) :
    BlockStep i s.blk t.blk := by
  cases hrun
  exact .refused i s.blk

theorem blockStep_of_isPush {i : Instr} {s t : State} (hpush : isPush i) (hrun : exec i s = .next t) :
    BlockStep i s.blk t.blk := by
  obtain ⟨xs, -, hexec⟩ := exec_of_isPush hpush
  exact blockStep_of_runIf (hexec s ▸ hrun) fun hopen => .push hpush hopen xs

/-- The inversion of `exec` on the block. -/
theorem exec_blockStep {i : Instr} {s t : State} (hrun : exec i s = .next t) :
    BlockStep i s.blk t.blk := by
  cases i with
  | nop | rd => cases hrun; exact .keep _ _
  | abort => cases hrun; exact .abort _
  | gen => exact blockStep_of_runIf hrun fun _ => .gen _
  | parse => exact blockStep_of_runIf hrun fun _ => .parse _
  | raw => exact blockStep_of_runIf hrun fun _ => .raw _
  | finish => exact blockStep_of_runIf hrun blockStep_finishSession
  | textchk => exact blockStep_of_runIf hrun .textchk
  | tagw b0 b1 b2 b3 =>
    exact blockStep_of_runIf hrun fun hclosed =>
      blockStep_writeTag ⟨b0, b1, b2, b3, rfl⟩ ((Bool.not_eq_true' _).mp hclosed) _
  | push8 ign b => exact blockStep_of_isPush (.inl ⟨ign, b, rfl⟩) hrun
  | push32 b0 b1 b2 b3 => exact blockStep_of_isPush (.inr ⟨b0, b1, b2, b3, rfl⟩) hrun
  | reservedCmd7 | reservedCmd8F | reservedCmdMbz | wrRefused | wrNarrowOrMisaligned =>
    exact blockStep_of_raisePerr hrun

/-! ### Who writes each element -/

/-- Bytes pushed in GEN and RAW write none of the registers that hold a frame's fields (42_stream.md R148,
R154). -/
theorem pushBytes_keeps_fields (xs : List Byte) {b : Block} (h : b.st = .gen ∨ b.st = .raw) :
    (pushBytes xs b).tag = b.tag ∧ (pushBytes xs b).length = b.length ∧
      (pushBytes xs b).rxcrc = b.rxcrc := by
  rw [pushBytes_of_gen_or_raw xs h]
  exact ⟨rfl, rfl, rfl⟩

/-- A push that changes a register of the frame's fields is one in PARSE. -/
theorem isParse_of_pushBytes_changes {xs : List Byte} {b : Block} (hopen : b.st.inSession = true)
    (hchange : (pushBytes xs b).tag ≠ b.tag ∨ (pushBytes xs b).length ≠ b.length ∨
      (pushBytes xs b).rxcrc ≠ b.rxcrc) : b.st = .parse := by
  by_contra hparse
  have hst : b.st = .gen ∨ b.st = .raw := by
    simpa [hparse] using (Phase.inSession_eq_true _).mp hopen
  obtain ⟨htag, hlength, hrxcrc⟩ := pushBytes_keeps_fields xs hst
  simp [htag, hlength, hrxcrc] at hchange

/-- The elements of the block change only where their writers write (10_state.md R26 to R38, 42_stream.md
R142). -/
structure OnlyItsWriters (i : Instr) (b b' : Block) : Prop where
  st : b'.st ≠ b.st → i = .abort ∨ startsSession i ∨ i = .finish ∨ (isTagWrite i ∧ b.st = .done)
  err : b'.err ≠ b.err → i = .abort ∨ startsSession i ∨ i = .finish ∨ i = .textchk ∨
    (isTagWrite i ∧ b.st = .done)
  lastop : b'.lastop ≠ b.lastop → i = .abort ∨ startsSession i ∨ i = .finish ∨
    (isTagWrite i ∧ b.st = .done)
  tag : b'.tag ≠ b.tag → (isTagWrite i ∧ (b.st = .idle ∨ b.st = .done)) ∨ i = .parse ∨
    (isPush i ∧ b.st = .parse)
  length : b'.length ≠ b.length → startsSession i ∨ (i = .finish ∧ b.st = .gen) ∨
    (isPush i ∧ b.st = .parse)
  rxcrc : b'.rxcrc ≠ b.rxcrc → startsSession i ∨ (isPush i ∧ b.st = .parse)
  count : b'.count ≠ b.count → startsSession i ∨ isPush i
  crc : b'.crc ≠ b.crc → startsSession i ∨ isPush i
  u8 : b'.u8 ≠ b.u8 → startsSession i ∨ isPush i

theorem onlyItsWriters_push {i : Instr} {b : Block} (hpush : isPush i) (hopen : b.st.inSession = true)
    (xs : List Byte) : OnlyItsWriters i b (pushBytes xs b) := by
  obtain ⟨hst, herr, hlastop, -⟩ := pushBytes_keeps xs b
  exact {
    st := fun h => absurd hst h
    err := fun h => absurd herr h
    lastop := fun h => absurd hlastop h
    tag := fun h => .inr (.inr ⟨hpush, isParse_of_pushBytes_changes hopen (.inl h)⟩)
    length := fun h => .inr (.inr ⟨hpush, isParse_of_pushBytes_changes hopen (.inr (.inl h))⟩)
    rxcrc := fun h => .inr ⟨hpush, isParse_of_pushBytes_changes hopen (.inr (.inr h))⟩
    count := fun _ => .inr hpush
    crc := fun _ => .inr hpush
    u8 := fun _ => .inr hpush }

theorem onlyItsWriters_start {i : Instr} {b b' : Block} (hstart : startsSession i)
    (htag : b'.tag ≠ b.tag → i = .parse) : OnlyItsWriters i b b' where
  st := fun _ => .inr (.inl hstart)
  err := fun _ => .inr (.inl hstart)
  lastop := fun _ => .inr (.inl hstart)
  tag := fun h => .inr (.inl (htag h))
  length := fun _ => .inl hstart
  rxcrc := fun _ => .inl hstart
  count := fun _ => .inl hstart
  crc := fun _ => .inl hstart
  u8 := fun _ => .inl hstart

theorem BlockStep.onlyItsWriters {i : Instr} {b b' : Block} (h : BlockStep i b b') :
    OnlyItsWriters i b b' := by
  cases h with
  | keep | refused | abort => constructor <;> simp
  | gen => exact onlyItsWriters_start (.inl rfl) fun h => absurd rfl h
  | parse => exact onlyItsWriters_start (.inr (.inl rfl)) fun _ => rfl
  | raw => exact onlyItsWriters_start (.inr (.inr rfl)) fun h => absurd rfl h
  | finishInGen hst => constructor <;> simp [finishGen, hst]
  | finishInParse hst => constructor <;> simp [finishParse]
  | finishInRaw hst => constructor <;> simp [finishRaw]
  | textchk hvalid => constructor <;> simp [textCheck]
  | tagInIdle htag hst data | tagInDone htag hst data => constructor <;> simp [hst, htag]
  | push hpush hopen xs => exact onlyItsWriters_push hpush hopen xs

theorem runIf_reads {legal : Bool} {f : Block → Block} {s t : State} (hrun : runIf legal f s = .next t) :
    t.reads = s.reads := by
  rcases runIf_cases legal f s with ⟨-, h⟩ | ⟨-, h⟩
  · obtain rfl := Host.Outcome.next.inj (h ▸ hrun)
    rfl
  · obtain rfl := Host.Outcome.next.inj (h ▸ hrun)
    rfl

/-- Only a read adds to the observation (70_reset_and_hazards.md R238). -/
theorem exec_reads {i : Instr} {s t : State} (hrun : exec i s = .next t) :
    (∃ off size, i = .rd off size) ∨ t.reads = s.reads := by
  cases i with
  | rd off size => exact .inl ⟨off, size, rfl⟩
  | gen | parse | raw | finish | textchk | tagw | push8 | push32 => exact .inr (runIf_reads hrun)
  | _ => cases hrun; exact .inr rfl

/-- Settles O22. -/
theorem eachElementHasOnlyItsWriters : Obligations.EachElementHasOnlyItsWriters := by
  intro i s t hrun
  obtain ⟨hst, herr, hlastop, htag, hlength, hrxcrc, hcount, hcrc, hu8⟩ :=
    (exec_blockStep hrun).onlyItsWriters
  exact ⟨hst, herr, hlastop, htag, hlength, hrxcrc, hcount, hcrc, hu8, (exec_reads hrun).resolve_right,
    exec_keeps_ports hrun⟩

/-! ### What bytes do to the validator -/

/-- A pushed byte is a step of the validator or does not reach it (42_stream.md R142). -/
theorem pushByte_u8 (x : Byte) (b : Block) :
    (pushByte x b).u8 = b.u8 ∨ (pushByte x b).u8 = u8Step b.u8 x := by
  have hfield (f : FrameField) : (pushInField f x b).u8 = b.u8 ∨
      (pushInField f x b).u8 = u8Step b.u8 x := by
    cases f with
    | payload => exact .inr rfl
    | length | tag | checksum | excess => exact .inl rfl
  unfold pushByte pushContribution
  split
  case h_1 | h_2 => exact .inr rfl
  case h_3 => exact hfield _
  case h_4 | h_5 => exact .inl rfl

/-- What every step of the validator keeps, every sequence of pushed bytes keeps. -/
theorem pushBytes_u8 {P : Utf8 → Prop} (hstep : ∀ u x, P u → P (u8Step u x)) (xs : List Byte) {b : Block}
    (h : P b.u8) : P (pushBytes xs b).u8 := by
  induction xs generalizing b with
  | nil => exact h
  | cons x xs ih =>
    rw [pushBytes_cons]
    apply ih
    rcases pushByte_u8 x b with hu8 | hu8 <;> rw [hu8]
    · exact h
    · exact hstep _ x h

theorem u8Step_keeps_bad (u : Utf8) (x : Byte) (h : u.bad = true) : (u8Step u x).bad = true := by
  rw [u8Step_of_bad u x h]
  rfl

/-- 42_stream.md R150: pushes keep an ill-formed validator, and what else writes it is a start command. -/
theorem BlockStep.bad_or_restarts {i : Instr} {b b' : Block} (h : BlockStep i b b')
    (hbad : b.u8.bad = true) : b'.u8.bad = true ∨ (startsSession i ∧ b'.u8 = Utf8.init) := by
  cases h with
  | push hpush hopen xs => exact .inl (pushBytes_u8 u8Step_keeps_bad xs hbad)
  | gen => exact .inr ⟨.inl rfl, rfl⟩
  | parse => exact .inr ⟨.inr (.inl rfl), rfl⟩
  | raw => exact .inr ⟨.inr (.inr rfl), rfl⟩
  | _ => exact .inl hbad

/-- Settles O31. -/
theorem illFormedUtf8IsSticky : Obligations.IllFormedUtf8IsSticky :=
  fun _ _ _ hrun hbad => (exec_blockStep hrun).bad_or_restarts hbad

end Sys2Proof.Machine
end

section
/-! PROOFS of 20_memory.md R63 to R72 and 70_reset_and_hazards.md: what reaches the block, what a step does
with it, and reset. -/

namespace Sys2Proof.Machine

/-! ### The window -/

theorem offsetIn_outside {base addr : Nat} (h : addr < base ∨ base + 0x40 ≤ addr) :
    offsetIn base addr = .error .outsideWindow := if_neg (by omega)

theorem offsetIn_inside (base : Nat) (off : Offset) : offsetIn base (base + off.toNat) = .ok off := by
  have hoff := off.isLt
  rw [offsetIn, if_pos (by omega), Nat.add_sub_cancel_left, BitVec.ofNat_toNat, BitVec.setWidth_eq]

theorem sizeOf?_eq_ok {size : Nat} {sz : AccessSize}
    (h : (size = 1 ∧ sz = .one) ∨ (size = 2 ∧ sz = .two) ∨ (size = 4 ∧ sz = .four)) :
    sizeOf? size = .ok sz := by
  rcases h with ⟨rfl, rfl⟩ | ⟨rfl, rfl⟩ | ⟨rfl, rfl⟩ <;> rfl

theorem submit_of_route_ok {s : State} {a : HostAccess} {op : BusOp} (h : route Config.base a = .ok op) :
    s.submit a = { s with pending := s.pending ++ [.access op] } := by
  rw [State.submit, h]
theorem submit_of_route_error {s : State} {a : HostAccess} {e : RouteError}
    (h : route Config.base a = .error e) : s.submit a = s := by
  rw [State.submit, h]

/-- Settles O5: routing answers the offset exactly for an address in the window. -/
theorem onlyWindowAccessesReachTheBlock : Obligations.OnlyWindowAccessesReachTheBlock := by
  intro s addr data
  refine ⟨fun houtside size => ?_, fun off haddr size sz hsize => ?_⟩
  · have hoff := offsetIn_outside houtside
    exact ⟨submit_of_route_error (by rw [route, hoff]), submit_of_route_error (by rw [route, hoff])⟩
  · subst haddr
    have hoff := offsetIn_inside Config.base off
    have hsz := sizeOf?_eq_ok hsize
    exact ⟨submit_of_route_ok (by rw [route, hoff, hsz]), submit_of_route_ok (by rw [route, hoff, hsz])⟩

/-! ### One event -/

/-- The outcome is a next state, and it does not depend on what waits at the port. -/
def IgnoresPort (f : State → Host.Outcome State Fault Refusal) : Prop :=
  ∀ s : State, ∃ t : State, ∀ p : List Event,
    f { s with pending := p } = .next { t with pending := p }

theorem ignoresPort_onBlock (f : Block → Block) : IgnoresPort fun s => .next (s.onBlock f) :=
  fun s => ⟨s.onBlock f, fun _ => rfl⟩

theorem ignoresPort_runIf (legal : Block → Bool) (f : Block → Block) :
    IgnoresPort fun s => runIf (legal s.blk) f s := by
  intro s
  cases h : legal s.blk with
  | false => exact ⟨s.onBlock Block.withPerr, fun p => by simp only [h]; rfl⟩
  | true => exact ⟨s.onBlock f, fun p => by simp only [h]; rfl⟩

theorem ignoresPort_exec (i : Instr) : IgnoresPort (exec i) := by
  cases i with
  | nop => exact ignoresPort_onBlock id
  | rd off size => exact fun s => ⟨s.returning (busRead s.blk off size), fun _ => rfl⟩
  | abort => exact ignoresPort_onBlock _
  | reservedCmd7 | reservedCmd8F | reservedCmdMbz | wrRefused | wrNarrowOrMisaligned =>
    exact ignoresPort_onBlock Block.withPerr
  | gen | parse | raw | tagw => exact ignoresPort_runIf (fun b => !b.st.inSession) _
  | finish | push8 | push32 => exact ignoresPort_runIf (fun b => b.st.inSession) _
  | textchk => exact ignoresPort_runIf Block.validChunk _

theorem deliver_access_held {s : State} (op : BusOp) (h : s.resetHeld = true) :
    deliver (.access op) s = .next (loseAccess op s) := if_pos h
theorem deliver_access_released {s : State} (op : BusOp) (h : s.resetHeld = false) :
    deliver (.access op) s = exec (decode op) s := by simp [deliver, h]

theorem loseAccess_blk (op : BusOp) (s : State) : (loseAccess op s).blk = s.blk := by
  cases op <;> rfl
theorem loseAccess_pending (op : BusOp) (s : State) (p : List Event) :
    loseAccess op { s with pending := p } = { loseAccess op s with pending := p } := by
  cases op <;> rfl
theorem meetReset_pending (op : BusOp) (s : State) (p : List Event) :
    meetReset op { s with pending := p } = { meetReset op s with pending := p } := by
  cases op <;> rfl
theorem accessAtReset_held {s : State} (op : BusOp) (h : s.resetHeld = true) :
    accessAtReset (some op) s = loseAccess op s := if_pos h
theorem accessAtReset_released {s : State} (op : BusOp) (h : s.resetHeld = false) :
    accessAtReset (some op) s = meetReset op s := by simp [accessAtReset, h]

theorem accessAtReset_pending (meeting : Option BusOp) (s : State) (p : List Event) :
    accessAtReset meeting { s with pending := p } = { accessAtReset meeting s with pending := p } := by
  cases meeting with
  | none => rfl
  | some op =>
    rcases Bool.eq_false_or_eq_true s.resetHeld with hheld | hheld
    · rw [accessAtReset_held (s := { s with pending := p }) op hheld, accessAtReset_held op hheld]
      exact loseAccess_pending op s p
    · rw [accessAtReset_released (s := { s with pending := p }) op hheld, accessAtReset_released op hheld]
      exact meetReset_pending op s p

theorem ignoresPort_deliver (e : Event) : IgnoresPort (deliver e) := by
  intro s
  cases e with
  | reset => exact ⟨{ s.resetBlock with resetHeld := false }, fun _ => rfl⟩
  | releaseReset => exact ⟨{ s with resetHeld := false }, fun _ => rfl⟩
  | assertReset meeting =>
    refine ⟨{ (accessAtReset meeting s).resetBlock with resetHeld := true }, fun p => ?_⟩
    rw [deliver, accessAtReset_pending]
    rfl
  | access op =>
    rcases Bool.eq_false_or_eq_true s.resetHeld with hheld | hheld
    · refine ⟨loseAccess op s, fun p => ?_⟩
      rw [deliver_access_held (s := { s with pending := p }) op hheld, loseAccess_pending]
    · obtain ⟨t, ht⟩ := ignoresPort_exec (decode op) s
      exact ⟨t, fun p => (deliver_access_released (s := { s with pending := p }) op hheld).trans (ht p)⟩

theorem IgnoresPort.answers {f : State → Host.Outcome State Fault Refusal} (h : IgnoresPort f)
    (s : State) : ∃ t, f s = .next t := by
  obtain ⟨t, ht⟩ := h s
  exact ⟨_, ht s.pending⟩

/-! ### Steps and runs -/

theorem step_of_idle_port {s : State} (h : s.pending = []) : step s = .next s := by
  simp [step, deliverNext, h]

/-- Settles O7. -/
theorem noEventNoChange : Obligations.NoEventNoChange := fun _ => step_of_idle_port

/-- Settles O6. -/
theorem stepRunsTheDecodedOperation : Obligations.StepRunsTheDecodedOperation := by
  intro s op rest hpending hheld
  obtain ⟨hwf, -⟩ := everyAccessIsOneOperation op
  exact ⟨hwf, (step_of_event hpending).trans (deliver_access_released op hheld)⟩

/-- Settles O8: neither an operation nor an event is ever refused by the model. -/
theorem everyOperationAnswersANextState : Obligations.EveryOperationAnswersANextState := by
  refine ⟨fun i s => (ignoresPort_exec i).answers s, fun s => ?_⟩
  cases hpending : s.pending with
  | nil => exact ⟨s, step_of_idle_port hpending⟩
  | cons e rest =>
    rw [step_of_event hpending]
    exact (ignoresPort_deliver e).answers _

/-- Settles O9, by induction on the events: an event handled at the head of the port is the same event
handled with nothing behind it. -/
theorem runIsTheFoldOfTheAccessRules : Obligations.RunIsTheFoldOfTheAccessRules := by
  intro es rest s
  induction es generalizing s with
  | nil => exact ⟨_, rfl, rfl⟩
  | cons e es ih =>
    obtain ⟨u, hu⟩ := ignoresPort_deliver e s
    obtain ⟨t, hfold, hrun⟩ := ih u
    refine ⟨t, ?_, ?_⟩
    · rw [foldEvents, hu]
      exact hfold
    · have hstep : step { s with pending := e :: es ++ rest } = .next { u with pending := es ++ rest } :=
        (step_of_event rfl).trans (hu _)
      exact (runSteps_succ _ hstep).trans hrun

/-! ### Reset -/

/-- Settles O10: the reset state holds the listed values, and the sixteen reads are run. -/
theorem resetStateHoldsTheSpecValues : Obligations.ResetStateHoldsTheSpecValues := by
  unfold Obligations.ResetStateHoldsTheSpecValues
  decide

/-- Settles O11. -/
theorem resetRestoresEveryElement : Obligations.ResetRestoresEveryElement :=
  fun _ _ hpending => step_of_event hpending

/-- 70_reset_and_hazards.md R233: reset asserted in a window an access meets. -/
theorem step_of_assertReset {s : State} {op : BusOp} {rest : List Event} (hheld : s.resetHeld = false)
    (hpending : s.pending = .assertReset (some op) :: rest) :
    step s = .next
      { (meetReset op { s with pending := rest }).resetBlock with resetHeld := true } := by
  rw [step_of_event hpending, deliver,
    accessAtReset_released (s := { s with pending := rest }) op hheld]

theorem step_of_access_held {s : State} {op : BusOp} {rest : List Event} (hheld : s.resetHeld = true)
    (hpending : s.pending = .access op :: rest) :
    step s = .next (loseAccess op { s with pending := rest }) :=
  (step_of_event hpending).trans (deliver_access_held op hheld)

/-- Settles O12: a lost or dropped write changes nothing before the reset does; a read takes its value from
the draw. -/
theorem accessAgainstReset : Obligations.AccessAgainstReset := by
  intro s rest off size data
  refine ⟨fun hheld hpending => step_of_assertReset hheld hpending, fun hheld hpending => ?_,
    fun hheld hpending => step_of_access_held hheld hpending, fun hheld hpending => ?_⟩
  · refine ⟨_, _, step_of_assertReset hheld hpending, rfl, rfl, rfl, rfl, ?_⟩
    cases Config.readSeesOldState s.draws with
    | true => exact .inl rfl
    | false => exact .inr rfl
  · exact ⟨_, _, step_of_access_held hheld hpending, rfl, rfl, hheld, rfl⟩

/-! ### What a step does to the block -/

/-- What a step does to the block: nothing, a reset, or the operation of an access. -/
theorem step_cases {s t : State} (hstep : step s = .next t) :
    (t.blk = s.blk ∧ (t.resetHeld = true → s.resetHeld = true)) ∨
    (t.blk = Block.reset ∧ ∃ e rest, s.pending = e :: rest ∧
      (e = .reset ∨ ∃ meeting, e = .assertReset meeting)) ∨
    (∃ op rest, s.pending = .access op :: rest ∧ s.resetHeld = false ∧
      exec (decode op) { s with pending := rest } = .next t) := by
  cases hpending : s.pending with
  | nil =>
    obtain rfl := Host.Outcome.next.inj ((step_of_idle_port hpending).symm.trans hstep)
    exact .inl ⟨rfl, id⟩
  | cons e rest =>
    rw [step_of_event hpending] at hstep
    cases e with
    | reset => cases hstep; exact .inr (.inl ⟨rfl, _, _, rfl, .inl rfl⟩)
    | assertReset meeting => cases hstep; exact .inr (.inl ⟨rfl, _, _, rfl, .inr ⟨_, rfl⟩⟩)
    | releaseReset => cases hstep; exact .inl ⟨rfl, nofun⟩
    | access op =>
      rcases Bool.eq_false_or_eq_true s.resetHeld with hheld | hheld
      · rw [deliver_access_held (s := { s with pending := rest }) op hheld] at hstep
        cases hstep
        exact .inl ⟨loseAccess_blk op _, fun _ => hheld⟩
      · rw [deliver_access_released (s := { s with pending := rest }) op hheld] at hstep
        exact .inr (.inr ⟨op, rest, rfl, hheld, hstep⟩)

/-! ### PERR -/

/-- No operation but ABORT clears PERR: one that is refused sets it, any other keeps it. -/
theorem exec_keeps_perr {i : Instr} {s t : State} (hi : i ≠ .abort) (hrun : exec i s = .next t)
    (hperr : s.blk.perr = true) : t.blk.perr = true := by
  obtain ⟨hrefused, haccepted⟩ := exec_refusedExactlyIf s hi
  by_cases h : refusedIn i s.blk
  · obtain rfl := Host.Outcome.next.inj ((hrefused h).symm.trans hrun)
    rfl
  · obtain ⟨u, hu, hkeep⟩ := haccepted h
    obtain rfl := Host.Outcome.next.inj (hu.symm.trans hrun)
    exact hkeep.trans hperr

/-- STATUS[11] is PERR (10_state.md R25). -/
theorem status_getLsbD_perr (b : Block) : (busRead b 0x08 .four).getLsbD 11 = b.perr := by
  change (status b).getLsbD 11 = b.perr
  simp only [status, BitVec.getLsbD_setWidth, BitVec.getLsbD_append]
  simp

/-- Settles O21. -/
theorem onlyAbortAndResetClearPerr : Obligations.OnlyAbortAndResetClearPerr := by
  refine ⟨fun s t hstep hset hclear => ?_, fun s => ⟨_, rfl, rfl⟩, fun s meeting rest hpending => ?_,
    status_getLsbD_perr⟩
  · rcases step_cases hstep with ⟨hblk, -⟩ | ⟨-, e, rest, hpending, hreset⟩ |
      ⟨op, rest, hpending, hheld, hrun⟩
    · simp [hblk, hset] at hclear
    · exact ⟨e, rest, hpending, hreset.imp_right .inl⟩
    · refine ⟨_, rest, hpending, .inr (.inr ⟨op, rfl, ?_, hheld⟩)⟩
      by_contra habort
      simp [exec_keeps_perr habort hrun hset] at hclear
  · rcases hpending with hpending | hpending
    · exact ⟨_, step_of_event hpending, rfl⟩
    · exact ⟨_, step_of_event hpending, rfl⟩

end Sys2Proof.Machine
end

section
/-! PROOFS of 10_state.md section 3 and 40_tag.md section 1: the words STATUS and TAGFLAGS, field by field. -/

namespace Sys2Proof.Machine

/-! ### STATUS -/

theorem Phase.code_toNat (p : Phase) : p.code.toNat
    = match p with | .idle => 0 | .gen => 1 | .parse => 2 | .raw => 3 | .done => 4 := by
  cases p <;> rfl
theorem ErrCode.code_toNat (e : ErrCode) : e.code.toNat = match e with
    | .ok => 0 | .invalidTag => 1 | .truncatedInput => 2 | .lengthMismatch => 3
    | .checksumMismatch => 4 | .notUtf8Text => 5 | .lengthOverflow => 6 := by
  cases e <;> rfl
theorem LastOp.code_toNat (l : LastOp) : l.code.toNat
    = match l with | .none => 0 | .gen => 1 | .parse => 2 | .raw => 3 := by
  cases l <;> rfl
theorem Utf8.ok_toNat (u : Utf8) : u.ok.toNat = if u.bad = false ∧ u.pend = 0 then 1 else 0 := by
  simp only [← Utf8.ok_iff]
  cases u.ok <;> rfl
theorem toNat_eq_ite (c : Bool) : c.toNat = if c = true then 1 else 0 := by cases c <;> rfl

/-- 10_state.md R25: the fields of STATUS side by side, as a number. -/
theorem status_toNat (b : Block) : (status b).toNat = b.st.code.toNat + 16 * b.err.code.toNat
    + 256 * b.lastop.code.toNat + 1024 * b.u8.ok.toNat + 2048 * b.perr.toNat := by
  have hst := b.st.code.isLt
  have herr := b.err.code.isLt
  have hlastop := b.lastop.code.isLt
  have hok := Bool.toNat_le b.u8.ok
  have hperr := Bool.toNat_le b.perr
  simp only [status, BitVec.toNat_setWidth, toNat_append_eq, BitVec.toNat_ofBool, BitVec.toNat_ofNat]
  omega

/-- Settles O14. -/
theorem statusIsTheSumOfItsFields : Obligations.StatusIsTheSumOfItsFields := by
  intro b
  have hsum := status_toNat b
  rw [Phase.code_toNat, ErrCode.code_toNat, LastOp.code_toNat, Utf8.ok_toNat, toNat_eq_ite] at hsum
  exact hsum

/-! ### TAGFLAGS -/

/-- 40_tag.md R100, on numbers. -/
theorem alpha_iff (b : Byte) : alpha b = true ↔
    (0x41 ≤ b.toNat ∧ b.toNat ≤ 0x5A) ∨ (0x61 ≤ b.toNat ∧ b.toNat ≤ 0x7A) := by
  simp [alpha, BitVec.le_def]

/-- Byte `n` from the least significant, of the four of a word. -/
theorem wordByte_toNat_of_low (w : Word) {n : Nat} (h : n < 4) :
    (wordByte w (3 - n)).toNat = w.toNat / 256 ^ n % 256 := by
  have hpow : 2 ^ (24 - 8 * (3 - n)) = 256 ^ n := by
    rw [show 24 - 8 * (3 - n) = 8 * n by omega, pow_mul]
    rfl
  rw [wordByte_toNat, hpow]

/-- 40_tag.md R101: every byte of a valid tag is a letter. -/
theorem tagValid_iff (tag : Word) : tagValid tag = true ↔
    ∀ n < 4, alpha (wordByte tag (3 - n)) = true := by
  constructor
  · intro h n hn
    simp only [tagValid, Bool.and_eq_true] at h
    obtain ⟨⟨⟨h0, h1⟩, h2⟩, h3⟩ := h
    interval_cases n
    · exact h3
    · exact h2
    · exact h1
    · exact h0
  · intro h
    simp only [tagValid, Bool.and_eq_true]
    exact ⟨⟨⟨h 3 (by decide), h 2 (by decide)⟩, h 1 (by decide)⟩, h 0 (by decide)⟩

/-- Bit 5 of a tag byte in its place in TAG (40_tag.md R102 to R105). -/
theorem wordByte_getLsbD_5 (tag : Word) (n : Nat) :
    (wordByte tag n).getLsbD 5 = tag.getLsbD (24 - 8 * n + 5) := by
  simp [wordByte]

/-- 10_state.md R32: the five flags in their places. -/
theorem tagFlags_getLsbD (tag : Word) :
    (tagFlags tag).getLsbD 0 = tagValid tag ∧ (tagFlags tag).getLsbD 1 = tagCritical tag ∧
    (tagFlags tag).getLsbD 2 = tagPublic tag ∧ (tagFlags tag).getLsbD 3 = tagReservedValid tag ∧
    (tagFlags tag).getLsbD 4 = tagSafeToCopy tag := by
  simp only [tagFlags, BitVec.getLsbD_setWidth, BitVec.getLsbD_append]
  simp

theorem tagFlags_lt (tag : Word) : (tagFlags tag).toNat < 32 := by
  rw [tagFlags, BitVec.toNat_setWidth_of_le (by decide)]
  exact BitVec.isLt _

/-- Settles O15. -/
theorem tagFlagsClassifyTheTag : Obligations.TagFlagsClassifyTheTag := by
  intro b
  obtain ⟨hvalid, hcritical, hpublic, hreserved, hsafe⟩ := tagFlags_getLsbD b.tag
  change ((tagFlags b.tag).getLsbD 0 = true ↔ _) ∧ (tagFlags b.tag).getLsbD 1 = _ ∧
    (tagFlags b.tag).getLsbD 2 = _ ∧ (tagFlags b.tag).getLsbD 3 = _ ∧
    (tagFlags b.tag).getLsbD 4 = _ ∧ (tagFlags b.tag).toNat < 32
  refine ⟨?_, ?_, ?_, ?_, ?_, tagFlags_lt b.tag⟩
  · rw [hvalid, tagValid_iff]
    refine forall₂_congr fun n hn => ?_
    rw [alpha_iff, wordByte_toNat_of_low b.tag hn]
  · rw [hcritical, tagCritical, wordByte_getLsbD_5]
  · rw [hpublic, tagPublic, wordByte_getLsbD_5]
  · rw [hreserved, tagReservedValid, wordByte_getLsbD_5]
  · rw [hsafe, tagSafeToCopy, wordByte_getLsbD_5]

/-- Settles O16: the flags are run on the four bytes. -/
theorem ruStIsCriticalPrivateAndSafeToCopy : Obligations.RuStIsCriticalPrivateAndSafeToCopy := by
  unfold Obligations.RuStIsCriticalPrivateAndSafeToCopy
  decide

end Sys2Proof.Machine
end

section
/-! PROOFS of the invariant of 10_state.md, 42_stream.md section 4 and 43_commands.md section 4: it holds at
reset and every step keeps it. -/

namespace Sys2Proof.Machine

/-! ### The validator -/

theorem canonical_u8Want {n : Fin 4} {lo hi : Byte} (h : n = 0 → lo = 0x80 ∧ hi = 0xBF) :
    (u8Want n lo hi).canonical := ⟨h, nofun⟩
theorem canonical_u8Want_plain (n : Fin 4) : (u8Want n 0x80 0xBF).canonical :=
  canonical_u8Want fun _ => ⟨rfl, rfl⟩

theorem canonical_init : Utf8.init.canonical := by decide
theorem canonical_u8Bad : u8Bad.canonical := by decide

/-- A byte that starts a character opens it with a continuation byte to come, or leaves none open
(42_stream.md R150). -/
theorem canonical_u8Start (b : Byte) : (u8Start b).canonical := by
  fun_cases u8Start b
  case case1 => exact canonical_init
  case case10 => exact canonical_u8Bad
  all_goals exact canonical_u8Want (by decide)

/-- 10_state.md R40: every step of the validator ends in the canonical form. -/
theorem canonical_u8Step (u : Utf8) (b : Byte) : (u8Step u b).canonical := by
  unfold u8Step u8Continue
  split_ifs
  · exact canonical_u8Bad
  · exact canonical_u8Want_plain _
  · exact canonical_u8Bad
  · exact canonical_u8Start b

/-! ### The block -/

/-- Outside DONE only the validator, the codes and an open session's registers are constrained. -/
theorem Block.inv_of_not_done {b : Block} (hu8 : b.u8.canonical) (hst : b.st ≠ .done)
    (hlastop : b.lastop = .none) (herr : b.err = .ok) (hopen : b.openSessionFits) : b.Inv := by
  refine ⟨hu8, ⟨fun _ => hst, fun _ => hlastop⟩, ⟨fun _ => herr, fun h => ?_⟩, hopen,
    fun h => absurd h.1 hst, fun h => absurd h.1 hst, fun h => absurd h.1 hst⟩
  rw [herr] at h
  cases h

/-- A session is not DONE, so it has no LASTOP and no result code. -/
theorem Block.Inv.codes_of_open {b : Block} (hinv : b.Inv) (hst : b.st ≠ .done) :
    b.lastop = .none ∧ b.err = .ok := by
  obtain ⟨-, hlastop, ⟨herr, -⟩, -⟩ := hinv
  exact ⟨hlastop.mpr hst, herr hst⟩

theorem inv_pushBytes {b : Block} (hinv : b.Inv) (hopen : b.st.inSession = true) (xs : List Byte) :
    (pushBytes xs b).Inv := by
  have hdone : b.st ≠ .done := fun h => by simp [h, Phase.inSession] at hopen
  obtain ⟨hst, herr, hlastop, -⟩ := pushBytes_keeps xs b
  obtain ⟨hlastop', herr'⟩ := hinv.codes_of_open hdone
  obtain ⟨hu8, -, -, hfits, -⟩ := hinv
  refine Block.inv_of_not_done (pushBytes_u8 (fun u x _ => canonical_u8Step u x) xs hu8) (hst ▸ hdone)
    (hlastop.trans hlastop') (herr.trans herr') fun hsession => ?_
  rw [hst] at hsession
  obtain ⟨-, hlength, hrxcrc⟩ := pushBytes_keeps_fields xs hsession
  rw [hlength, hrxcrc]
  exact hfits hsession

/-! ### The ends of the three sessions -/

theorem inv_finishGen {b : Block} (hinv : b.Inv) (hst : b.st = .gen) :
    (endSession .gen (finishGen b)).Inv := by
  obtain ⟨hu8, -, -, hfits, -⟩ := hinv
  obtain ⟨-, hrxcrc⟩ := hfits (.inl hst)
  have hlength : (b.count.extractLsb' 0 32).toNat = b.count.toNat % 2 ^ 32 := by simp
  have herr : (finishGen b).err ≠ .notUtf8Text := by
    unfold finishGen
    dsimp only
    split_ifs <;> nofun
  refine ⟨hu8, ⟨nofun, fun h => absurd rfl h⟩, ⟨fun h => absurd rfl h, fun h => absurd h herr⟩, nofun,
    fun _ => ⟨hlength, hrxcrc, fun hbig => if_pos hbig, fun hsmall => .inl ?_⟩, nofun, nofun⟩
  exact if_neg (Nat.not_lt.mpr hsmall)

/-- 43_commands.md R179: the code that FINISH in PARSE writes says which checks passed. -/
theorem parseResultHolds_parseVerdict (b : Block) :
    (endSession .parse (finishParse b)).parseResultHolds = true := by
  unfold Block.parseResultHolds
  simp only [endSession, finishParse, parseVerdict]
  split_ifs <;> simp_all

theorem parseVerdict_ne_notUtf8Text (b : Block) : parseVerdict b ≠ .notUtf8Text := by
  unfold parseVerdict
  split_ifs <;> nofun

theorem inv_finishParse {b : Block} (hinv : b.Inv) : (endSession .parse (finishParse b)).Inv := by
  obtain ⟨hu8, -⟩ := hinv
  exact ⟨hu8, ⟨nofun, fun h => absurd rfl h⟩,
    ⟨fun h => absurd rfl h, fun h => absurd h (parseVerdict_ne_notUtf8Text b)⟩, nofun, nofun,
    fun _ => parseResultHolds_parseVerdict b, nofun⟩

theorem inv_finishRaw {b : Block} (hinv : b.Inv) (hst : b.st = .raw) :
    (endSession .raw (finishRaw b)).Inv := by
  obtain ⟨hu8, -, -, hfits, -⟩ := hinv
  obtain ⟨hlength, hrxcrc⟩ := hfits (.inr hst)
  exact ⟨hu8, ⟨nofun, fun h => absurd rfl h⟩, ⟨fun h => absurd rfl h, nofun⟩, nofun, nofun, nofun,
    fun _ => ⟨hlength, hrxcrc, rfl⟩⟩

/-! ### TEXTCHK -/

/-- TEXTCHK writes one of the two codes of a valid chunk (43_commands.md R181). -/
theorem textCheck_err (b : Block) : (textCheck b).err = .ok ∨ (textCheck b).err = .notUtf8Text := by
  cases hok : b.u8.ok
  · rw [textCheck_of_not_ok hok]; exact .inr rfl
  · rw [textCheck_of_ok hok]; exact .inl rfl

/-- OK and NotUtf8Text say the same of a finished PARSE. -/
theorem parseResultHolds_congr {b b' : Block} (herr : b.err = .ok ∨ b.err = .notUtf8Text)
    (herr' : b'.err = .ok ∨ b'.err = .notUtf8Text) (hb' : b' = { b with err := b'.err }) :
    b'.parseResultHolds = b.parseResultHolds := by
  rw [hb']
  unfold Block.parseResultHolds
  rcases herr with h | h <;> rcases herr' with h' | h' <;> simp [h, h']

theorem inv_textCheck {b : Block} (hinv : b.Inv) (hvalid : b.validChunk = true) :
    (textCheck b).Inv := by
  obtain ⟨hu8, hlastop, -, hopen, hgen, hparse, -⟩ := hinv
  obtain ⟨hdone, hop, herr⟩ := (Block.validChunk_iff b).mp hvalid
  have herr' := textCheck_err b
  refine ⟨hu8, hlastop, ⟨fun h => absurd hdone h, fun h => ?_⟩, hopen, fun h => ?_, fun h => ?_,
    fun h => ?_⟩
  · cases hok : b.u8.ok
    · exact hok
    · rw [textCheck_of_ok hok] at h
      cases h
  · obtain ⟨hlength, hrxcrc, hbig, -⟩ := hgen h
    refine ⟨hlength, hrxcrc, fun hcount => ?_, fun _ => herr'⟩
    simp [hbig hcount] at herr
  · rw [parseResultHolds_congr herr herr' rfl]
    exact hparse h
  · obtain ⟨-, hraw⟩ := h
    simp [show b.lastop = .raw from hraw] at hop

/-! ### Every step -/

theorem inv_reset : Block.reset.Inv := by decide

/-- Every operation keeps the invariant of the block. -/
theorem BlockStep.inv {i : Instr} {b b' : Block} (h : BlockStep i b b') (hinv : b.Inv) : b'.Inv := by
  cases h with
  | keep | refused => exact hinv
  | abort =>
    obtain ⟨hu8, -⟩ := hinv
    exact Block.inv_of_not_done hu8 nofun rfl rfl nofun
  | gen | parse | raw =>
    exact Block.inv_of_not_done canonical_init nofun rfl rfl fun _ => ⟨rfl, rfl⟩
  | finishInGen hst => exact inv_finishGen hinv hst
  | finishInParse hst => exact inv_finishParse hinv
  | finishInRaw hst => exact inv_finishRaw hinv hst
  | textchk hvalid => exact inv_textCheck hinv hvalid
  | tagInIdle htag hst data =>
    have hdone : b.st ≠ .done := by simp [hst]
    obtain ⟨hlastop, herr⟩ := hinv.codes_of_open hdone
    obtain ⟨hu8, -, -, hfits, -⟩ := hinv
    exact Block.inv_of_not_done hu8 hdone hlastop herr hfits
  | tagInDone htag hst data =>
    obtain ⟨hu8, -⟩ := hinv
    exact Block.inv_of_not_done hu8 nofun rfl rfl nofun
  | push hpush hopen xs => exact inv_pushBytes hinv hopen xs

/-- Settles O55. -/
theorem resetMeetsTheInvariant : Obligations.ResetMeetsTheInvariant := ⟨inv_reset, nofun⟩

/-- Settles O56: a step leaves the block alone, resets it, or runs one operation with reset released. -/
theorem everyStepKeepsTheInvariant : Obligations.EveryStepKeepsTheInvariant := by
  rintro s t ⟨hblk, hheld⟩ hstep
  rcases step_cases hstep with ⟨hsame, hheld'⟩ | ⟨hreset, -⟩ | ⟨op, rest, -, hreleased, hrun⟩
  · rw [State.Inv, hsame]
    exact ⟨hblk, fun h => hheld (hheld' h)⟩
  · rw [State.Inv, hreset]
    exact ⟨inv_reset, fun _ => rfl⟩
  · obtain ⟨-, hkept, -⟩ := exec_keeps_ports hrun
    refine ⟨(exec_blockStep hrun).inv hblk, fun h => ?_⟩
    rw [hkept, hreleased] at h
    cases h

/-! ### Valid chunks -/

/-- What a valid chunk's code says of a finished PARSE (60_exceptions.md R205). -/
theorem of_parseResultHolds {b : Block} (h : b.parseResultHolds = true)
    (herr : b.err = .ok ∨ b.err = .notUtf8Text) :
    b.count.toNat = 12 + b.length.toNat ∧ tagValid b.tag = true ∧ crcFinal b.crc = b.rxcrc := by
  unfold Block.parseResultHolds at h
  rcases herr with herr | herr <;> simp [herr] at h <;> tauto

/-- Settles O57: what the invariant says of DONE after GEN and after PARSE, with the two codes of a valid
chunk. -/
theorem validChunkRegistersAgree : Obligations.ValidChunkRegistersAgree := by
  rintro s ⟨⟨-, -, -, -, hgen, hparse, -⟩, -⟩ hvalid
  obtain ⟨hdone, -, herr⟩ := (Block.validChunk_iff s.blk).mp hvalid
  refine ⟨fun hop => ?_, fun hop => of_parseResultHolds (hparse ⟨hdone, hop⟩) herr⟩
  obtain ⟨hlength, -, hbig, -⟩ := hgen ⟨hdone, hop⟩
  have hfits : ¬ 0xFFFFFFFF < s.blk.count.toNat := fun h => by simp [hbig h] at herr
  omega

end Sys2Proof.Machine
end

section
/-! PROOFS of 42_stream.md sections 1, 2 and 4: a push in each state, and the fields it reaches in PARSE. -/

namespace Sys2Proof.Machine

/-! ### A push where it is legal and where it is refused -/

theorem exec_push8_of_open {s : State} (ign : BitVec 24) (b : Byte) (h : s.blk.st.inSession = true) :
    exec (.push8 ign b) s = .next (s.onBlock (pushByte b)) := by
  change runIf s.blk.st.inSession _ s = _
  rw [h, runIf_true]
theorem exec_push8_of_closed {s : State} (ign : BitVec 24) (b : Byte) (h : s.blk.st.inSession = false) :
    exec (.push8 ign b) s = .next (s.onBlock Block.withPerr) := by
  change runIf s.blk.st.inSession _ s = _
  rw [h, runIf_false]

theorem exec_push32_of_open {s : State} (b0 b1 b2 b3 : Byte) (h : s.blk.st.inSession = true) :
    exec (.push32 b0 b1 b2 b3) s = .next (s.onBlock (pushBytes [b0, b1, b2, b3])) := by
  change runIf s.blk.st.inSession _ s = _
  rw [h, runIf_true]
theorem exec_push32_of_closed {s : State} (b0 b1 b2 b3 : Byte) (h : s.blk.st.inSession = false) :
    exec (.push32 b0 b1 b2 b3) s = .next (s.onBlock Block.withPerr) := by
  change runIf s.blk.st.inSession _ s = _
  rw [h, runIf_false]

theorem Phase.inSession_of_gen_or_raw {p : Phase} (h : p = .gen ∨ p = .raw) : p.inSession = true :=
  (Phase.inSession_eq_true p).mpr (h.imp_right .inr)
theorem Phase.inSession_of_parse {p : Phase} (h : p = .parse) : p.inSession = true :=
  (Phase.inSession_eq_true p).mpr (.inr (.inl h))

/-- Settles O25. -/
theorem push8OutsideParse : Obligations.Push8OutsideParse := by
  refine fun s ign b => ⟨fun hst => ?_, fun hst => ?_, fun _ => rfl⟩
  · rw [exec_push8_of_open ign b (Phase.inSession_of_gen_or_raw hst), State.onBlock,
      pushByte_of_gen_or_raw b s.blk hst]
  · exact exec_push8_of_closed ign b ((Phase.inSession_eq_false _).mpr hst)

/-! ### One byte in PARSE -/

/-- 42_stream.md R142: PUSH8 in PARSE, at a frame offset of the field `f`. -/
theorem exec_push8_of_parse {s : State} (ign : BitVec 24) (b : Byte) (hst : s.blk.st = .parse)
    {f : FrameField} (hfield : fieldAt s.blk.count.toNat s.blk.length.toNat = f) :
    exec (.push8 ign b) s
      = .next { s with blk := { pushInField f b s.blk with count := s.blk.count + 1 } } := by
  rw [exec_push8_of_open ign b (Phase.inSession_of_parse hst), State.onBlock,
    pushByte_of_parse b s.blk hst, hfield]

/-- Settles O26: each range of offsets is one field, and shifting a byte in is arithmetic. -/
theorem push8InParseFollowsTheFrameOffset : Obligations.Push8InParseFollowsTheFrameOffset := by
  intro s ign b hst
  refine ⟨fun hhi => ?_, fun hlo hhi => ?_, fun hlo hhi => ?_, fun hlo hhi => ?_, fun hlo => ?_⟩
  · rw [exec_push8_of_parse ign b hst (fieldAt_length hhi), pushInField, shiftIn_eq]
  · rw [exec_push8_of_parse ign b hst (fieldAt_tag hlo hhi), pushInField, shiftIn_eq]
  · rw [exec_push8_of_parse ign b hst (fieldAt_payload hlo hhi), pushInField]
  · rw [exec_push8_of_parse ign b hst (fieldAt_checksum hlo hhi), pushInField, shiftIn_eq]
  · rw [exec_push8_of_parse ign b hst (fieldAt_excess hlo), pushInField]

/-! ### Four bytes -/

theorem pushBytes_count (xs : List Byte) (b : Block) :
    (pushBytes xs b).count = b.count + BitVec.ofNat 64 xs.length := by
  induction xs generalizing b with
  | nil => simp
  | cons x xs ih => rw [pushBytes_cons, ih, pushByte_count, count_add_length_cons]

/-- A sequence of bytes changes the stream's elements and TAG alone (42_stream.md R142). -/
theorem pushBytes_eq_stream_update (xs : List Byte) (b : Block) : pushBytes xs b = { b with
    length := (pushBytes xs b).length
    tag := (pushBytes xs b).tag
    rxcrc := (pushBytes xs b).rxcrc
    crc := (pushBytes xs b).crc
    u8 := (pushBytes xs b).u8
    count := b.count + BitVec.ofNat 64 xs.length } := by
  obtain ⟨hst, herr, hlastop, hperr⟩ := pushBytes_keeps xs b
  rw [← hst, ← herr, ← hlastop, ← hperr, ← pushBytes_count]

/-- Settles O28. -/
theorem push32CompletesInASession : Obligations.Push32CompletesInASession := by
  refine fun s b0 b1 b2 b3 => ⟨fun hst => ?_, fun hst => ?_, fun hst => ?_⟩
  · rw [exec_push32_of_open _ _ _ _ (Phase.inSession_of_gen_or_raw hst), State.onBlock,
      pushBytes_of_gen_or_raw _ hst]
    rfl
  · rw [exec_push32_of_open _ _ _ _ (Phase.inSession_of_parse hst), State.onBlock,
      pushBytes_eq_stream_update]
    exact ⟨_, _, _, _, _, rfl⟩
  · exact exec_push32_of_closed _ _ _ _ ((Phase.inSession_eq_false _).mpr hst)

/-- Four bytes shifted in leave nothing of what the register held (30_encoding.md R85). -/
theorem foldl_shiftIn_four (r : Word) (b0 b1 b2 b3 : Byte) :
    [b0, b1, b2, b3].foldl shiftIn r = BitVec.ofNat 32
      (b0.toNat * 2 ^ 24 + b1.toNat * 2 ^ 16 + b2.toNat * 2 ^ 8 + b3.toNat) := by
  apply BitVec.eq_of_toNat_eq
  simp only [List.foldl_cons, List.foldl_nil, shiftIn_eq, BitVec.toNat_ofNat]
  omega

/-- Settles O29: the four offsets from 0 on are the length field. -/
theorem lengthFieldIsBigEndian : Obligations.LengthFieldIsBigEndian := by
  intro s b0 b1 b2 b3 hst hcount
  rw [exec_push32_of_open _ _ _ _ (Phase.inSession_of_parse hst), State.onBlock,
    pushBytes_length_field (n := 0) hst hcount le_rfl, foldl_shiftIn_four]
  rfl

/-! ### LENGTH in PARSE -/

/-- 42_stream.md R143: only offsets 0 to 3 write LENGTH. -/
theorem pushByte_length_of_parse (x : Byte) {b : Block} (hst : b.st = .parse)
    (hcount : 4 ≤ b.count.toNat) : (pushByte x b).length = b.length := by
  have hfield : fieldAt b.count.toNat b.length.toNat ≠ .length := by
    rw [ne_eq, fieldAt_eq_length_iff]
    omega
  rw [pushByte_of_parse x b hst]
  cases h : fieldAt b.count.toNat b.length.toNat with
  | length => exact absurd h hfield
  | tag | payload | checksum | excess => rfl

theorem pushBytes_length_of_parse (xs : List Byte) {b : Block} (hst : b.st = .parse)
    (hcount : 4 ≤ b.count.toNat) (hwrap : b.count.toNat + xs.length ≤ 2 ^ 64) :
    (pushBytes xs b).length = b.length := by
  induction xs using List.reverseRecOn with
  | nil => rfl
  | append_singleton xs x ih =>
    rw [List.length_append, List.length_singleton] at hwrap
    have hcount' : (pushBytes xs b).count.toNat = b.count.toNat + xs.length := by
      rw [pushBytes_count, BitVec.toNat_add, BitVec.toNat_ofNat]
      omega
    rw [pushBytes_append]
    exact (pushByte_length_of_parse x ((pushBytes_keeps xs b).1.trans hst) (by omega)).trans
      (ih (by omega))

/-- Settles O30: a push is at most four bytes, and COUNT stays at 4 or more before each of them. -/
theorem lengthIsFinalAfterOffsetThree : Obligations.LengthIsFinalAfterOffsetThree := by
  intro i s t hpush hst hcount hwrap hrun
  obtain ⟨xs, hlen, hexec⟩ := exec_of_isPush hpush
  rw [hexec, Phase.inSession_of_parse hst, runIf_true] at hrun
  obtain rfl := Host.Outcome.next.inj hrun
  exact pushBytes_length_of_parse xs hst hcount (by omega)

end Sys2Proof.Machine
end

section
/-! PROOFS of 43_commands.md and 40_tag.md, single operations: ABORT, RAW, FINISH in each mode, TAGW outside
a session, refused writes. -/

namespace Sys2Proof.Machine

open Sys2Proof.Laws

/-- Settles O19. -/
theorem refusedWritesOnlySetPerr : Obligations.RefusedWritesOnlySetPerr := fun s off size data =>
  ⟨exec_wrRefused off data s, exec_wrNarrowOrMisaligned off size data s⟩

/-- Settles O24: the word of the four bytes is stored, and DONE alone has something to lose. -/
theorem tagBytesGoMostSignificantFirst : Obligations.TagBytesGoMostSignificantFirst := by
  intro s b0 b1 b2 b3 hst
  refine ⟨_, exec_tagw_of_closed b0 b1 b2 b3 ((Phase.inSession_eq_false _).mpr hst), ?_, ?_⟩
  · rw [State.onBlock_blk, writeTag_tag, wordOfBytes_toNat]
  · rcases hst with hidle | hdone
    · have hnot : s.blk.st ≠ .done := by simp [hidle]
      rw [State.onBlock, writeTag_of_not_done _ hnot, if_neg hnot, if_neg hnot, ← hidle]
    · rw [State.onBlock, writeTag_of_done _ hdone, if_pos hdone, if_pos hdone]

/-- Settles O33. -/
theorem abortReturnsToIdleAndClearsPerr : Obligations.AbortReturnsToIdleAndClearsPerr :=
  ⟨CodecAgrees.abort rfl, fun _ => rfl⟩

theorem exec_raw_of_closed {s : State} (h : s.blk.st.inSession = false) :
    exec .raw s = .next (s.onBlock (startSession .raw)) := by
  change runIf (!s.blk.st.inSession) _ s = _
  rw [h, Bool.not_false, runIf_true]
theorem exec_raw_of_open {s : State} (h : s.blk.st.inSession = true) :
    exec .raw s = .next (s.onBlock Block.withPerr) := by
  change runIf (!s.blk.st.inSession) _ s = _
  rw [h, Bool.not_true, runIf_false]

/-- Settles O36. -/
theorem rawStartsAndKeepsTheTag : Obligations.RawStartsAndKeepsTheTag :=
  ⟨CodecAgrees.raw rfl, fun _ =>
    ⟨fun hclosed => exec_raw_of_closed ((Phase.inSession_eq_false _).mpr hclosed),
      fun hopen => exec_raw_of_open ((Phase.inSession_eq_true _).mpr hopen)⟩⟩

/-! ### FINISH -/

theorem exec_finish_of_closed {s : State} (h : s.blk.st.inSession = false) :
    exec .finish s = .next (s.onBlock Block.withPerr) := by
  change runIf s.blk.st.inSession _ s = _
  rw [h, runIf_false]

/-- 43_commands.md R178 to R180: FINISH in each mode. -/
theorem exec_finish_of_gen {s : State} (h : s.blk.st = .gen) :
    exec .finish s = .next (s.onBlock fun b => endSession .gen (finishGen b)) := by
  rw [exec_finish_of_open (Phase.inSession_of_gen_or_raw (.inl h)), State.onBlock, finishSession_of_gen h]
  rfl
theorem exec_finish_of_parse {s : State} (h : s.blk.st = .parse) :
    exec .finish s = .next (s.onBlock fun b => endSession .parse (finishParse b)) := by
  rw [exec_finish_of_open (Phase.inSession_of_parse h), State.onBlock, finishSession_of_parse h]
  rfl
theorem exec_finish_of_raw {s : State} (h : s.blk.st = .raw) :
    exec .finish s = .next (s.onBlock fun b => endSession .raw (finishRaw b)) := by
  rw [exec_finish_of_open (Phase.inSession_of_gen_or_raw (.inr h)), State.onBlock, finishSession_of_raw h]
  rfl

/-- After FINISH no session is open, whether it ended one or was refused. -/
theorem inSession_after_finish {s t : State} (hrun : exec .finish s = .next t) :
    t.blk.st.inSession = false := by
  cases hopen : s.blk.st.inSession with
  | true =>
    obtain rfl := Host.Outcome.next.inj ((exec_finish_of_open hopen).symm.trans hrun)
    rcases (Phase.inSession_eq_true _).mp hopen with hst | hst | hst
    · rw [State.onBlock_blk, finishSession_of_gen hst]; rfl
    · rw [State.onBlock_blk, finishSession_of_parse hst]; rfl
    · rw [State.onBlock_blk, finishSession_of_raw hst]; rfl
  | false =>
    obtain rfl := Host.Outcome.next.inj ((exec_finish_of_closed hopen).symm.trans hrun)
    exact hopen

/-- Settles O37. -/
theorem finishEndsTheSessionOnce : Obligations.FinishEndsTheSessionOnce := by
  refine ⟨CodecAgrees.finish rfl, fun s hopen => ?_, fun s hclosed => ?_, fun s t hrun => ?_⟩
  · rcases hopen with hst | hst | hst <;> rw [hst]
    · exact ⟨_, _, exec_finish_of_gen hst, fun h => absurd rfl h⟩
    · exact ⟨_, _, exec_finish_of_parse hst, fun _ => rfl⟩
    · exact ⟨_, _, exec_finish_of_raw hst, fun _ => rfl⟩
  · exact exec_finish_of_closed ((Phase.inSession_eq_false _).mpr hclosed)
  · exact exec_finish_of_closed (inSession_after_finish hrun)

/-- COUNT's low half is COUNT modulo 2^32 (10_state.md R38). -/
theorem count_low_eq_ofNat (c : Count) : c.extractLsb' 0 32 = BitVec.ofNat 32 c.toNat := by
  apply BitVec.eq_of_toNat_eq
  simp

/-- Settles O38. -/
theorem finishInGenSetsTheLength : Obligations.FinishInGenSetsTheLength := by
  refine fun s hst => ⟨fun hsmall => ?_, fun hbig => ?_⟩
  · rw [exec_finish_of_gen hst, State.onBlock, finishGen, if_neg (by omega),
      count_low_eq_ofNat]
    rfl
  · have hmod : BitVec.ofNat 32 (s.blk.count.toNat % 2 ^ 32) = BitVec.ofNat 32 s.blk.count.toNat := by
      apply BitVec.eq_of_toNat_eq
      simp
    rw [exec_finish_of_gen hst, State.onBlock, finishGen, if_pos hbig, count_low_eq_ofNat, hmod]
    rfl

/-- Settles O39: the code is the verdict, whose checks stand in the order of the statement. -/
theorem finishInParseChecksInOrder : Obligations.FinishInParseChecksInOrder := by
  intro s hst
  refine ⟨parseVerdict s.blk, exec_finish_of_parse hst, fun hshort => if_pos hshort,
    fun hlong htag => ?_, fun hlong htag hlength => ?_, fun hlong htag hlength hcrc => ?_,
    fun hlong htag hlength hcrc => ?_⟩
  all_goals
    rw [parseVerdict, if_neg (Nat.not_lt.mpr hlong), htag]
  · rfl
  · rw [if_pos hlength]; rfl
  · rw [if_neg (not_not.mpr hlength)]
    exact if_pos hcrc
  · rw [if_neg (not_not.mpr hlength)]
    exact if_neg (not_not.mpr hcrc)

/-- Settles O40. -/
theorem finishInRawAlwaysSucceeds : Obligations.FinishInRawAlwaysSucceeds :=
  fun _ hst => exec_finish_of_raw hst

/-- 40_tag.md R107: of TAG the verdict of FINISH in PARSE sees VALID alone. -/
theorem parseVerdict_congr_tag {b : Block} {tag : Word} (h : tagValid tag = tagValid b.tag) :
    parseVerdict { b with tag := tag } = parseVerdict b := by
  unfold parseVerdict
  rw [h]

/-- Settles O42. -/
theorem advisoryTagFlagsGateNothing : Obligations.AdvisoryTagFlagsGateNothing := by
  intro s t u tag hst htag hrun hrun'
  obtain rfl := Host.Outcome.next.inj ((exec_finish_of_parse hst).symm.trans hrun)
  obtain rfl := Host.Outcome.next.inj
    ((exec_finish_of_parse (s := { s with blk := { s.blk with tag := tag } }) hst).symm.trans hrun')
  simp only [State.onBlock, finishParse, parseVerdict_congr_tag htag]
  rfl

end Sys2Proof.Machine
end

section
/-! PROOFS of 43_commands.md and 42_stream.md, whole sessions: what RAW, GEN and PARSE leave of the pushed
bytes, and FINISH in PARSE as `decode` of the buffer. -/

namespace Sys2Proof.Machine

/-! ### RAW -/

/-- 43_commands.md R176, R180: a RAW session, run. -/
theorem runSteps_rawSession {s : State} {ps : List PushOp} {rest : List Event} (hready : s.ready)
    (hpending : s.pending = session 0x4 ps ++ rest) :
    runSteps (ps.length + 2) s = .next { s with
      blk := finishSession (pushBytes (pushedBytes ps) (startSession .raw s.blk)), pending := rest } :=
  runSteps_session hready hpending (fun _ h => exec_raw_of_closed h) rfl

/-- 43_commands.md R180: what a RAW session leaves of the bytes. -/
theorem rawSession_result (bs : List Byte) (b : Block) :
    finishSession (pushBytes bs (startSession .raw b)) = { b with
      st := .done
      err := .ok
      lastop := .raw
      length := 0
      rxcrc := 0
      count := BitVec.ofNat 64 bs.length
      crc := crcFold crcInit bs
      u8 := u8Fold Utf8.init bs } := by
  rw [pushBytes_of_gen_or_raw bs (.inr rfl), finishSession_of_raw rfl]
  simp only [startSession_count, BitVec.ofNat_eq_ofNat, BitVec.zero_add]
  rfl

/-- Settles O48. -/
theorem rawSessionComputesCrc32 : Obligations.RawSessionComputesCrc32 := by
  intro s ps rest hready hpending
  have hrun := runSteps_rawSession hready hpending
  rw [rawSession_result] at hrun
  exact ⟨_, hrun, rfl, rfl, rfl, rfl, rfl, rfl, rfl, rfl, rfl, BitVec.toNat_ofNat _ _, rfl, rfl⟩

/-! ### GEN -/

/-- 43_commands.md R178: a GEN session, run, with the chunk it leaves. -/
theorem runSteps_genSession_result {s : State} {ps : List PushOp} {rest : List Event} (hready : s.ready)
    (hpending : s.pending = session 0x2 ps ++ rest) (hlen : (pushedBytes ps).length < 2 ^ 64) :
    runSteps (ps.length + 2) s = .next { s with
      blk := { s.blk with
        st := .done
        err := if 0xFFFFFFFF < (pushedBytes ps).length then .lengthOverflow else .ok
        lastop := .gen
        length := BitVec.ofNat 32 (pushedBytes ps).length
        rxcrc := 0
        count := BitVec.ofNat 64 (pushedBytes ps).length
        crc := crcFold crcInit (be32 s.blk.tag ++ pushedBytes ps)
        u8 := u8Fold Utf8.init (pushedBytes ps) }
      pending := rest } := by
  rw [runSteps_genSession hready hpending, genSession_result _ _ hlen]

/-- Settles O49. -/
theorem genSessionComputesTheChunk : Obligations.GenSessionComputesTheChunk := by
  intro s ps rest hready hpending hlen
  refine ⟨_, runSteps_genSession_result hready hpending hlen, rfl, rfl, rfl, rfl, rfl, rfl, rfl,
    Nat.mod_eq_of_lt hlen, BitVec.toNat_ofNat _ _, fun hfits => ?_, fun hoverflow => ?_, rfl, rfl⟩
  · exact if_neg (by omega)
  · exact if_pos (by omega)

/-- TEXTCHK written at the head of the port while a valid chunk is held (43_commands.md R181). -/
theorem step_of_textchk {s : State} {rest : List Event} (hpending : s.pending = busWord 0x04 0x6 :: rest)
    (hheld : s.resetHeld = false) (hvalid : s.blk.validChunk = true) :
    step s = .next { s with blk := textCheck s.blk, pending := rest } :=
  (step_of_busWord hpending hheld).trans
    (exec_textchk_of_validChunk (s := { s with pending := rest }) hvalid)

/-- Settles O47: the session ends in a valid chunk, and TEXTCHK reads the validator that has seen the
payload. -/
theorem textchkAfterGenDecidesUtf8 : Obligations.TextchkAfterGenDecidesUtf8 := by
  intro s ps rest hready hpending hlen
  have hsession := runSteps_genSession_result hready hpending (by omega)
  rw [if_neg (by omega)] at hsession
  obtain ⟨hheld, -⟩ := hready
  have hrun := (runSteps_add _ 1 hsession).trans (runSteps_succ 0 (step_of_textchk rfl hheld rfl))
  refine ⟨_, hrun, rfl, rfl, rfl, fun hwf => ?_, fun hnwf => ?_⟩
  · have hok := (validatorAcceptsExactlyWellFormedUtf8 _).mpr hwf
    exact if_pos hok
  · have hnok := mt (validatorAcceptsExactlyWellFormedUtf8 _).mp hnwf
    exact if_neg hnok

/-! ### A buffer through PARSE -/

theorem bigEndian_lt (bs : List Byte) : bigEndian bs < 256 ^ bs.length := by
  induction bs using List.reverseRecOn with
  | nil => decide
  | append_singleton bs b ih =>
    have hb := b.isLt
    rw [bigEndian_concat, List.length_append, List.length_singleton, pow_succ]
    omega

/-- A field of at most four bytes fits a register. -/
theorem ofNat_bigEndian_toNat {bs : List Byte} (h : bs.length ≤ 4) :
    (BitVec.ofNat 32 (bigEndian bs)).toNat = bigEndian bs := by
  have hpow : 256 ^ bs.length ≤ 256 ^ 4 := Nat.pow_le_pow_right (by decide) h
  exact Nat.mod_eq_of_lt (lt_of_lt_of_le (bigEndian_lt bs) hpow)

/-- What lies behind a buffer's frame (42_stream.md R147). -/
def bufferExcess (bs : List Byte) : List Byte := bs.drop (12 + bufferLength bs)

theorem bufferTag_length (bs : List Byte) : (bufferTag bs).length = min 4 (bs.length - 4) := by
  simp [bufferTag]
theorem bufferPayload_length (bs : List Byte) :
    (bufferPayload bs).length = min (bufferLength bs) (bs.length - 8) := by
  simp [bufferPayload]
theorem bufferChecksum_length (bs : List Byte) :
    (bufferChecksum bs).length = min 4 (bs.length - (8 + bufferLength bs)) := by
  simp [bufferChecksum]
theorem bufferExcess_length (bs : List Byte) :
    (bufferExcess bs).length = bs.length - (12 + bufferLength bs) := by
  simp [bufferExcess]

/-- A buffer is its fields in order, each as far as the buffer reaches (30_encoding.md R86). -/
theorem buffer_eq_fields (bs : List Byte) :
    bs.take 4 ++ (bufferTag bs ++ (bufferPayload bs ++ (bufferChecksum bs ++ bufferExcess bs))) = bs := by
  have hexcess : bufferExcess bs = bs.drop (8 + bufferLength bs + 4) := by
    rw [bufferExcess, Nat.add_right_comm]
  rw [bufferChecksum, hexcess, List.drop_take_append_drop, bufferPayload, List.drop_take_append_drop,
    bufferTag, List.drop_take_append_drop bs 4 4, List.take_append_drop]

/-- The block in PARSE when the bytes of a buffer have been pushed (42_stream.md R143 to R149). -/
def parsedBlock (bs : List Byte) (b : Block) : Block := { startParse b with
  length := BitVec.ofNat 32 (bufferLength bs)
  tag := BitVec.ofNat 32 (bigEndian (bufferTag bs))
  rxcrc := BitVec.ofNat 32 (bigEndian (bufferChecksum bs))
  count := BitVec.ofNat 64 bs.length
  crc := crcFold crcInit (bufferTag bs ++ bufferPayload bs)
  u8 := u8Fold Utf8.init (bufferPayload bs) }

theorem bufferLength_toNat (bs : List Byte) :
    (BitVec.ofNat 32 (bufferLength bs)).toNat = bufferLength bs :=
  ofNat_bigEndian_toNat (List.length_take_le 4 bs)

/-- 42_stream.md R142: the bytes of a buffer fall into its fields, each at the offsets of its own. A field
the buffer does not reach is empty. -/
theorem pushBytes_startParse {bs : List Byte} (b : Block) (hlen : bs.length < 2 ^ 64) :
    pushBytes bs (startParse b) = parsedBlock bs b := by
  have hL := bufferLength_toNat bs
  have hlength : (bs.take 4).length = min 4 bs.length := List.length_take
  have htag := bufferTag_length bs
  have hpayload := bufferPayload_length bs
  have hchecksum := bufferChecksum_length bs
  have hexcess := bufferExcess_length bs
  have hfield : (bs.take 4).foldl shiftIn (startParse b).length = BitVec.ofNat 32 (bufferLength bs) :=
    foldl_shiftIn_zero _
  conv_lhs => rw [← buffer_eq_fields bs]
  rw [pushBytes_append, pushBytes_append, pushBytes_append, pushBytes_append,
    pushBytes_length_field (n := 0) (xs := bs.take 4) rfl rfl (by omega), hfield,
    pushBytes_of_parse (f := .tag) _ (bufferTag bs) rfl rfl (by omega)
      fun i _ _ => fieldAt_tag (by omega) (by omega),
    pushBytes_of_parse (f := .payload) _ (bufferPayload bs) rfl rfl (by omega)
      fun i _ _ => fieldAt_payload (by omega) (by dsimp only [pushFieldBytes]; omega),
    pushBytes_of_parse (f := .checksum) _ (bufferChecksum bs) rfl rfl (by omega)
      fun i _ _ => fieldAt_checksum (by dsimp only [pushFieldBytes]; omega)
        (by dsimp only [pushFieldBytes]; omega),
    pushBytes_of_parse (f := .excess) _ (bufferExcess bs) rfl rfl (by omega)
      fun i _ _ => fieldAt_excess (by dsimp only [pushFieldBytes]; omega)]
  have hcount : 0 + (bs.take 4).length + (bufferTag bs).length + (bufferPayload bs).length
      + (bufferChecksum bs).length + (bufferExcess bs).length = bs.length := by omega
  rw [hcount, parsedBlock, ← foldl_shiftIn_zero, ← foldl_shiftIn_zero, crcFold_append]
  rfl

/-- 42_stream.md R142 to R149: a run over the pushes of a PARSE session that is still open. -/
theorem runSteps_parse_pushes {s : State} {ps : List PushOp} {rest : List Event} (hready : s.ready)
    (hpending : s.pending = busWord 0x04 0x3 :: ps.map PushOp.event ++ rest)
    (hlen : (pushedBytes ps).length < 2 ^ 64) :
    runSteps (ps.length + 1) s
      = .next { s with blk := parsedBlock (pushedBytes ps) s.blk, pending := rest } := by
  obtain ⟨hheld, hclosed⟩ := hready
  have hfirst := (step_of_busWord hpending hheld).trans
    (exec_parse_of_closed ((Phase.inSession_eq_false _).mpr hclosed))
  rw [runSteps_succ _ hfirst, ← pushBytes_startParse _ hlen]
  exact runSteps_pushes rfl hheld rfl

/-- Settles O50. -/
theorem parseSessionCapturesTheFrame : Obligations.ParseSessionCapturesTheFrame := by
  intro s ps rest hready hpending hlen
  exact ⟨_, runSteps_parse_pushes hready hpending hlen, rfl, rfl, rfl, rfl, rfl, rfl,
    Nat.mod_eq_of_lt hlen, bufferLength_toNat _, ofNat_bigEndian_toNat (List.length_take_le 4 _),
    ofNat_bigEndian_toNat (List.length_take_le 4 _), rfl, rfl⟩

/-! ### FINISH as `decode` of the buffer -/

/-- A field of four bytes is the word its register holds (30_encoding.md R86). -/
theorem be32_ofNat_bigEndian {bs : List Byte} (h : bs.length = 4) :
    be32 (BitVec.ofNat 32 (bigEndian bs)) = bs := by
  match bs, h with
  | [b0, b1, b2, b3], _ =>
    have hword : BitVec.ofNat 32 (bigEndian [b0, b1, b2, b3]) = wordOfBytes b0 b1 b2 b3 := by
      apply BitVec.eq_of_toNat_eq
      rw [ofNat_bigEndian_toNat (by simp), wordOfBytes_toNat]
      simp only [bigEndian, List.foldl_cons, List.foldl_nil]
      omega
    rw [hword, be32_wordOfBytes]

/-- VALID, on the four bytes of the tag (40_tag.md R101). -/
theorem tagValid_eq_all_be32 (tag : Word) : tagValid tag = (be32 tag).all alpha := by
  simp [tagValid, be32, Bool.and_assoc]

/-- 43_commands.md R179: the checks of FINISH are those of `decode`, in the same order. -/
theorem parseVerdict_parsedBlock {bs : List Byte} (b : Block) (hlen : bs.length < 2 ^ 64) :
    parseVerdict (parsedBlock bs b) = decodeBuffer bs := by
  have hcount : (parsedBlock bs b).count.toNat = bs.length := Nat.mod_eq_of_lt hlen
  have hlength : (parsedBlock bs b).length.toNat = bufferLength bs := bufferLength_toNat bs
  have hcrc : crcFinal (parsedBlock bs b).crc = crc32 (bufferTag bs ++ bufferPayload bs) :=
    crcFinal_crcFold_crcInit _
  rw [parseVerdict, decodeBuffer, hcount, hlength, hcrc]
  by_cases hshort : bs.length < 12
  · rw [if_pos hshort, if_pos hshort]
  · have htag : (bufferTag bs).length = 4 := by rw [bufferTag_length]; omega
    have hvalid : (!tagValid (parsedBlock bs b).tag) = (bufferTag bs).any (fun x => !alpha x) := by
      change (!tagValid (BitVec.ofNat 32 (bigEndian (bufferTag bs)))) = _
      rw [tagValid_eq_all_be32, be32_ofNat_bigEndian htag, List.not_all_eq_any_not]
    rw [hvalid]
    rfl

/-- The buffer that `decode` accepts is the frame of its fields. -/
theorem frame_of_decodeBuffer_ok {bs : List Byte} (h : decodeBuffer bs = .ok) :
    (bufferPayload bs).length = bufferLength bs ∧
      BitVec.ofNat 32 (bigEndian (bufferChecksum bs)) = crc32 (bufferTag bs ++ bufferPayload bs) ∧
      be32 (BitVec.ofNat 32 (bigEndian (bufferTag bs))) = bufferTag bs ∧
      bs = frame (BitVec.ofNat 32 (bufferLength bs)) (BitVec.ofNat 32 (bigEndian (bufferTag bs)))
        (bufferPayload bs) (BitVec.ofNat 32 (bigEndian (bufferChecksum bs))) := by
  unfold decodeBuffer at h
  split_ifs at h with hshort htag hlength hcrc
  have hlen : bs.length = 12 + bufferLength bs := not_not.mp hlength
  have hlengthField : (bs.take 4).length = 4 := by rw [List.length_take]; omega
  have htagField : (bufferTag bs).length = 4 := by rw [bufferTag_length]; omega
  have hchecksumField : (bufferChecksum bs).length = 4 := by rw [bufferChecksum_length]; omega
  have hexcess : bufferExcess bs = [] := List.drop_eq_nil_of_le hlen.le
  have hbe32Length : be32 (BitVec.ofNat 32 (bufferLength bs)) = bs.take 4 :=
    be32_ofNat_bigEndian hlengthField
  have hbe32Tag := be32_ofNat_bigEndian htagField
  refine ⟨?_, (not_not.mp hcrc).symm, hbe32Tag, ?_⟩
  · rw [bufferPayload_length]
    omega
  · rw [frame, hbe32Length, hbe32Tag, be32_ofNat_bigEndian hchecksumField]
    conv_lhs => rw [← buffer_eq_fields bs, hexcess, List.append_nil]
    simp only [List.append_assoc]

/-- Settles O51: the session leaves the fields of the buffer, and the verdict on them is `decode`'s. -/
theorem parseSessionIsDecodeOfTheBuffer : Obligations.ParseSessionIsDecodeOfTheBuffer := by
  intro s ps rest hready hpending hlen
  have hrun := runSteps_parseSession hready hpending
  rw [pushBytes_startParse _ hlen, finishSession_of_parse rfl, finishParse,
    parseVerdict_parsedBlock _ hlen] at hrun
  refine ⟨_, hrun, rfl, rfl, rfl, rfl, rfl, rfl, fun hok => ?_⟩
  obtain ⟨hpayload, hchecksum, htag, hframe⟩ := frame_of_decodeBuffer_ok hok
  refine ⟨?_, (bufferLength_toNat _).trans hpayload.symm, hchecksum, ?_⟩
  · rw [hchecksum] at hframe
    exact hframe
  · change BitVec.ofNat 32 (bigEndian (bufferChecksum (pushedBytes ps)))
      = crc32 (be32 (BitVec.ofNat 32 (bigEndian (bufferTag (pushedBytes ps)))) ++ _)
    rw [htag]
    exact hchecksum

end Sys2Proof.Machine
end
